-- ==== Sys2Proof/Word.lean ====
section
/-! DEFINITION. The word types of the block: frame bytes, command words and the 32-bit fields of a
pulse instruction (00_scope.md R8, 30_encoding.md R50, R59). -/

namespace Sys2Proof

/-- A frame byte, 0..255 (00_scope.md R8), and an outbound tag (30_encoding.md R63). -/
abbrev Byte := BitVec 8

/-- An inbound command word (30_encoding.md R50) and a field of a pulse instruction (R59). -/
abbrev Word := BitVec 32

end Sys2Proof
end

