-- ==== Sys2Proof/Config.lean ====
section
/-! DEFINITION. What one block is built with: the carrier constants, the vendor's Protocol Table and the
platform parameters (00_scope.md R7, 10_state.md R18 to R21), and the fixture vendor of
95_test_vectors.md section 2. Nothing here is ever written by a step (R18). -/

namespace Sys2Proof

/-- F_CARRIER: the carrier frequency in Hz (43_carrier_modulator.md R90). -/
def fCarrier : Nat := 38000

/-- T_HALF: the duration in µs of one carrier instruction (43_carrier_modulator.md R91). -/
def tHalf : Nat := 13

/-- A field of the normal frame: a 1-based byte index, a mask and a shift (10_state.md R19). -/
structure Field where
  pos   : Nat
  mask  : Byte
  shift : Nat
deriving DecidableEq, Repr

/-- The optional power field with its two values (10_state.md R18). -/
structure PowerField where
  field  : Field
  pwrOn  : Nat
  pwrOff : Nat
deriving DecidableEq, Repr

/-- CK_KIND: which of the two known checksum formulas applies (10_state.md R18). -/
inductive CkKind where
  | negsum
  | sum
deriving DecidableEq, Repr

/-- CARRIER_TIE (93_implementation_defined.md I3): how a half-cycle count that lies half way is rounded.
The spec's value is `up` (92_eei_decisions.md D10). -/
inductive CarrierTie where
  | up
  | down
  | even
deriving DecidableEq, Repr

/-- CARRIER_PERIOD (93_implementation_defined.md I4): the period the count divides by. The spec's value is
`exactPeriod` (92_eei_decisions.md D10). -/
inductive CarrierPeriod where
  | exactPeriod
  | rounded26
deriving DecidableEq, Repr

/-- The vendor's Protocol Table `VT` (10_state.md R18). A map is a list of key and code pairs; ENC_TEMP and
DEC_TEMP are finite tables, since no rule applies them outside the temperature bounds and the codes of
a byte (DESIGN CHOICE, log entry 6). -/
structure VendorTable where
  tempMin      : Int
  tempMax      : Int
  defaultTemp  : Int
  fanMap       : List (Nat × Nat)
  modeMap      : List (Nat × Nat)
  swingMap     : List (Nat × Nat)
  defaultFan   : Nat
  defaultMode  : Nat
  defaultSwing : Nat
  tHdrMark     : Nat
  tHdrSpace    : Nat
  tGap         : Nat
  tOne         : Nat
  tZero        : Nat
  frameOn      : List Byte
  frameOff     : Option (List Byte)
  ckKind       : CkKind
  ckConst      : Nat
  ckLo         : Nat
  ckHi         : Nat
  ckPos        : Nat
  ckLen        : Nat
  fldTemp      : Field
  fldFan       : Field
  fldMode      : Field
  fldSwing     : Field
  encTemp      : List (Int × Nat)
  decTemp      : List (Nat × Int)
  fldPower     : Option PowerField
deriving DecidableEq, Repr

/-- Everything one block is built with but the collaborator handle (00_scope.md R7). The two carrier
readings are the parameters of 93_implementation_defined.md I3 and I4 (DESIGN CHOICE, log entry 12). -/
structure Params where
  vt            : VendorTable
  names         : List String
  chunkSize     : Nat
  emitPin       : Nat
  tTail1        : Nat
  tTail2        : Nat
  carrierTie    : CarrierTie
  carrierPeriod : CarrierPeriod
deriving DecidableEq, Repr

/-- The spec's own carrier reading: exact period, ties up (92_eei_decisions.md D10). -/
abbrev Params.SpecCarrier (p : Params) : Prop :=
  p.carrierTie = .up ∧ p.carrierPeriod = .exactPeriod

/-- The fixture vendor TV (95_test_vectors.md section 2): a test fixture, not a real vendor. -/
def fixtureTable : VendorTable where
  tempMin      := 16
  tempMax      := 30
  defaultTemp  := 22
  fanMap       := [(0, 0), (3, 1), (4, 2), (5, 3)]
  modeMap      := [(0, 0), (6, 1), (9, 2), (7, 4)]
  swingMap     := [(1, 0), (8, 1)]
  defaultFan   := 0
  defaultMode  := 0
  defaultSwing := 1
  tHdrMark     := 3320
  tHdrSpace    := 1580
  tGap         := 420
  tOne         := 1200
  tZero        := 400
  frameOn      := [0x14#8, 0x61#8, 0x00#8, 0x8B#8]
  frameOff     := some [0x14#8, 0x02#8]
  ckKind       := .negsum
  ckConst      := 0
  ckLo         := 1
  ckHi         := 3
  ckPos        := 4
  ckLen        := 4
  fldTemp      := ⟨2, 0xF0#8, 4⟩
  fldFan       := ⟨3, 0x03#8, 0⟩
  fldMode      := ⟨3, 0x70#8, 4⟩
  fldSwing     := ⟨3, 0x80#8, 7⟩
  encTemp      := [(16, 0), (17, 1), (18, 2), (19, 3), (20, 4), (21, 5), (22, 6), (23, 7)] ++
                  [(24, 8), (25, 9), (26, 10), (27, 11), (28, 12), (29, 13), (30, 14)]
  decTemp      := [(0, 16), (1, 17), (2, 18), (3, 19), (4, 20), (5, 21), (6, 22), (7, 23)] ++
                  [(8, 24), (9, 25), (10, 26), (11, 27), (12, 28), (13, 29), (14, 30)]
  fldPower     := some ⟨⟨2, 0x01#8, 0⟩, 1, 0⟩

/-- The fixture's globals (95_test_vectors.md section 2) with the spec's carrier reading. -/
def fixtureParams : Params where
  vt            := fixtureTable
  names         := ["AUTO", "OFF", "ULTRA", "HIGH", "MED", "LOW", "COOL", "HEAT", "ON", "DRY"]
  chunkSize     := 100
  emitPin       := 17
  tTail1        := 100
  tTail2        := 100
  carrierTie    := .up
  carrierPeriod := .exactPeriod

end Sys2Proof
end

