-- ==== Sys2Proof/Machine/Table.lean ====
section
/-! DEFINITION. What the block reads from its Protocol Table: option lookup, the temperature mapping, the
field forms, and the checks a table must pass before a block is built (10_state.md R18 to R20). -/

namespace Sys2Proof

/-- The value a finite map gives a key (40_protocol_state.md R65). -/
def lookupCode : List (Nat × Nat) → Nat → Option Nat
  | [], _ => none
  | (k, c) :: rest, nid => if k = nid then some c else lookupCode rest nid

/-- The first key that has this code: the inverse of a map whose codes are distinct
(40_protocol_state.md R75). -/
def inverseCode : List (Nat × Nat) → Nat → Option Nat
  | [], _ => none
  | (k, c) :: rest, code => if c = code then some k else inverseCode rest code

/-- ENC_TEMP as a finite table (10_state.md R18). -/
def encodeTemp : List (Int × Nat) → Int → Option Nat
  | [], _ => none
  | (k, c) :: rest, t => if k = t then some c else encodeTemp rest t

/-- DEC_TEMP as a finite table (10_state.md R18). -/
def decodeTemp : List (Nat × Int) → Nat → Option Int
  | [], _ => none
  | (k, t) :: rest, c => if k = c then some t else decodeTemp rest c

/-- `clamp(t, lo, hi) = max(lo, min(hi, t))` (00_scope.md R10). -/
def clamp (t lo hi : Int) : Int := max lo (min hi t)

/-- The byte a template holds at a 1-based index; none outside 1..length (00_scope.md R12). -/
def templateByte (template : List Byte) (n : Nat) : Option Byte :=
  if n = 0 then none else template[n - 1]?

/-- FieldRead's value in a byte (10_state.md R19). -/
def Field.extract (f : Field) (b : Byte) : Nat := (b &&& f.mask).toNat / 2 ^ f.shift

/-- FieldWrite's new byte (10_state.md R19): only the bits of the mask change. -/
def Field.insert (f : Field) (b : Byte) (v : Nat) : Byte :=
  (b &&& ~~~f.mask) ||| (BitVec.ofNat 8 (v * 2 ^ f.shift) &&& f.mask)

/-- A value fits a field (10_state.md R20 check 5). -/
def Field.fits (f : Field) (v : Nat) : Bool :=
  decide (v * 2 ^ f.shift ≤ 255) && decide (BitVec.ofNat 8 (v * 2 ^ f.shift) &&& ~~~f.mask = 0#8)

/-- No two elements are equal. -/
def allDistinct {α : Type} [DecidableEq α] : List α → Bool
  | [] => true
  | x :: xs => xs.all (fun y => decide (y ≠ x)) && allDistinct xs

/-- The integers from `lo` on, `k` of them. -/
def intsFrom (lo : Int) : Nat → List Int
  | 0 => []
  | k + 1 => lo :: intsFrom (lo + 1) k

/-- Writing the value into the template's field leaves the template as it is (10_state.md R20 check 8). -/
def Field.holds (f : Field) (template : List Byte) (v : Nat) : Bool :=
  match templateByte template f.pos with
  | some b => decide (f.insert b v = b)
  | none => false

namespace VendorTable

/-- L_N, the length of the normal frame. -/
abbrev lenOn (vt : VendorTable) : Nat := vt.frameOn.length

/-- The power-off template, empty where the vendor has none. -/
def offTemplate (vt : VendorTable) : List Byte := vt.frameOff.getD []

/-- Every field of the table, the power field last where there is one. -/
def fields (vt : VendorTable) : List Field :=
  [vt.fldTemp, vt.fldFan, vt.fldMode, vt.fldSwing] ++ (vt.fldPower.map (·.field)).toList

/-- R20 check 1. -/
def checkBounds (vt : VendorTable) : Bool :=
  decide (vt.tempMin ≤ vt.defaultTemp) && decide (vt.defaultTemp ≤ vt.tempMax)

/-- R20 check 2 (an element is a byte by its type). -/
def checkLengths (vt : VendorTable) : Bool :=
  decide (1 ≤ vt.lenOn) && decide (vt.lenOn ≤ 255) &&
    match vt.frameOff with
    | none => true
    | some f => decide (1 ≤ f.length) && decide (f.length ≤ 255)

/-- R20 check 3. -/
def checkChecksum (vt : VendorTable) : Bool :=
  decide (vt.ckLen = vt.lenOn) && decide (1 ≤ vt.ckLo) && decide (vt.ckLo ≤ vt.ckHi) &&
    decide (vt.ckHi ≤ vt.ckLen) && decide (1 ≤ vt.ckPos) && decide (vt.ckPos ≤ vt.ckLen) &&
    (decide (vt.ckPos < vt.ckLo) || decide (vt.ckHi < vt.ckPos))

/-- One field of R20 check 4, with the ranges of R19. -/
def checkField (vt : VendorTable) (f : Field) : Bool :=
  decide (1 ≤ f.pos) && decide (f.pos ≤ vt.lenOn) && decide (f.pos ≠ vt.ckPos) &&
    decide (f.mask ≠ 0#8) && decide (f.shift ≤ 7)

/-- Two fields own no common bit (R20 check 4). -/
def disjointFields (f g : Field) : Bool := decide (f.pos ≠ g.pos) || decide (f.mask &&& g.mask = 0#8)

/-- Every two fields of a list own no common bit (R20 check 4). -/
def pairwiseDisjoint : List Field → Bool
  | [] => true
  | f :: fs => fs.all (disjointFields f) && pairwiseDisjoint fs

/-- R20 check 4. -/
def checkFields (vt : VendorTable) : Bool :=
  vt.fields.all vt.checkField && pairwiseDisjoint vt.fields

/-- One map of R20 check 5; the keys are distinct because it is a map (10_state.md R18). -/
def checkMap (m : List (Nat × Nat)) (f : Field) : Bool :=
  !m.isEmpty && allDistinct (m.map (·.1)) && allDistinct (m.map (·.2)) && m.all (fun e => f.fits e.2)

/-- R20 check 5. -/
def checkMaps (vt : VendorTable) : Bool :=
  checkMap vt.fanMap vt.fldFan && checkMap vt.modeMap vt.fldMode && checkMap vt.swingMap vt.fldSwing

/-- One temperature of R20 check 6. -/
def checkTemp (vt : VendorTable) (t : Int) : Bool :=
  match encodeTemp vt.encTemp t with
  | some e => vt.fldTemp.fits e && decide (decodeTemp vt.decTemp e = some t)
  | none => false

/-- R20 check 6. -/
def checkTemps (vt : VendorTable) : Bool :=
  (intsFrom vt.tempMin (vt.tempMax - vt.tempMin + 1).toNat).all vt.checkTemp

/-- A default name is a key of its map and the template holds its code (R20 checks 7 and 8). -/
def checkDefault (vt : VendorTable) (m : List (Nat × Nat)) (nid : Nat) (f : Field) : Bool :=
  match lookupCode m nid with
  | some c => f.holds vt.frameOn c
  | none => false

/-- The template holds the default temperature (R20 check 8). -/
def checkDefaultTemp (vt : VendorTable) : Bool :=
  match encodeTemp vt.encTemp vt.defaultTemp with
  | some e => vt.fldTemp.holds vt.frameOn e
  | none => false

/-- R20 checks 7 and 8. Fields are disjoint, so writing all the defaults leaves the template unchanged
exactly when writing each of them does. -/
def checkDefaults (vt : VendorTable) : Bool :=
  vt.checkDefaultTemp && vt.checkDefault vt.fanMap vt.defaultFan vt.fldFan &&
    vt.checkDefault vt.modeMap vt.defaultMode vt.fldMode &&
    vt.checkDefault vt.swingMap vt.defaultSwing vt.fldSwing &&
    match vt.fldPower with
    | none => true
    | some pf => pf.field.holds vt.frameOn pf.pwrOn

/-- R20 checks 9 and 10. -/
def checkPower (vt : VendorTable) : Bool :=
  match vt.fldPower with
  | none => vt.frameOff.isSome
  | some pf => decide (pf.pwrOn ≠ pf.pwrOff) && pf.field.fits pf.pwrOn && pf.field.fits pf.pwrOff

/-- R20 check 12. -/
def checkTimings (vt : VendorTable) : Bool :=
  [vt.tHdrMark, vt.tHdrSpace, vt.tGap, vt.tOne, vt.tZero].all (fun d => decide (d < 2 ^ 32))

end VendorTable

namespace Params

/-- The option name a nid stands for (30_encoding.md R53). -/
def nameOf (p : Params) (nid : Nat) : Option String := p.names[nid]?

/-- NAMES is well formed: distinct strings, fewer than 0xFFFFFF, with the three names the source uses
(30_encoding.md R53, R58; 92_eei_decisions.md D3). -/
def checkNames (p : Params) : Bool :=
  allDistinct p.names && decide (p.names.length < 0xFFFFFF) && p.names.contains "AUTO" &&
    p.names.contains "OFF" && p.names.contains "ULTRA"

/-- Every key of a map names a string other than "ULTRA" (92_eei_decisions.md D3; R20 check 11). -/
def checkKeys (p : Params) (m : List (Nat × Nat)) : Bool :=
  m.all (fun e => decide (e.1 < p.names.length) && decide (p.nameOf e.1 ≠ some "ULTRA"))

/-- The platform parameters lie in their ranges (00_scope.md R7, R8; 93_implementation_defined.md I14). -/
def checkPlatform (p : Params) : Bool :=
  decide (1 ≤ p.chunkSize) && decide (p.emitPin ≤ 31) && decide (p.tTail1 < 2 ^ 32) &&
    decide (p.tTail2 < 2 ^ 32)

/-- The twelve checks of 10_state.md R20 on the Protocol Table. -/
def checkTable (p : Params) : Bool :=
  p.vt.checkBounds && p.vt.checkLengths && p.vt.checkChecksum && p.vt.checkFields && p.vt.checkMaps &&
    p.vt.checkTemps && p.vt.checkDefaults && p.vt.checkPower && p.checkKeys p.vt.fanMap &&
    p.checkKeys p.vt.modeMap && p.checkKeys p.vt.swingMap && p.vt.checkTimings

/-- The parameters a block is built with; any others build no block (10_state.md R20;
93_implementation_defined.md I14). -/
def admitted (p : Params) : Bool := p.checkTable && p.checkNames && p.checkPlatform

end Params

end Sys2Proof
end

