-- ==== Sys2Proof/Machine/State.lean ====
section
/-! DEFINITION. The state of the block, its observable events and responses, the schedule of the other
agents' moves, the reasons a step can stop, and the state after reset (10_state.md R22 to R33,
45_transmission_driver.md R105, 70_reset_and_hazards.md R141). -/

namespace Sys2Proof.Machine

/-- VARIANT (10_state.md R24). -/
inductive Variant where
  | normal
  | off
deriving DecidableEq, Repr

/-- The two frame buffers (20_memory.md R35). -/
inductive FrameSpace where
  | fn
  | ff
deriving DecidableEq, Repr

/-- PHASE, the sequencer's program counter (10_state.md R27). -/
inductive Phase where
  | idle
  | waitReady
  | modeset
  | clear
  | add
  | create
  | chain
  | deact
  | doneOk
  | doneFail
deriving DecidableEq, Repr

/-- HW_HANDLE (10_state.md R32). -/
inductive HwHandle where
  | present
  | absent
deriving DecidableEq, Repr

/-- A pulse instruction (30_encoding.md R59). -/
structure Pulse where
  onMask  : Word
  offMask : Word
  delay   : Word
deriving DecidableEq, Repr

/-- The pin mode of MODE_SET; the block uses OUTPUT only (30_encoding.md R63). -/
inductive PinMode where
  | output
deriving DecidableEq, Repr

/-- An outbound command with its argument (30_encoding.md R63). A wave handle is an opaque value that the
block never inspects, written as a natural number (DESIGN CHOICE, log entry 7). -/
inductive Outbound where
  | modeSet (pin : Nat) (mode : PinMode)
  | waveClear
  | waveAddPulse (pulses : List Pulse)
  | waveCreate
  | waveChainTx (handles : List Nat)
  | write (pin : Nat) (level : Nat)
deriving DecidableEq, Repr

/-- The success value of a completion (30_encoding.md R63): a wave handle for WAVE_CREATE, else none. -/
inductive CmplValue where
  | unit
  | handle (h : Nat)
deriving DecidableEq, Repr

/-- The collaborator's answer to the outstanding command (45_transmission_driver.md R107). -/
inductive Completion where
  | ok (v : CmplValue)
  | fail (err : Nat)
deriving DecidableEq, Repr

/-- Why a run failed, with the information recorded (60_exceptions.md R121). -/
inductive RunFailure where
  /-- E_NO_HANDLE. -/
  | noHandle
  /-- E_HW(tag, err). -/
  | hw (tag : Byte) (err : Nat)
deriving DecidableEq, Repr

/-- RESULT (10_state.md R28). -/
inductive RunResult where
  | none
  | pending
  | ok
  | fail (f : RunFailure)
deriving DecidableEq, Repr

/-- An event of the outbound trace (45_transmission_driver.md R105). -/
inductive Event where
  | issue (c : Outbound)
  | cmplOk (v : CmplValue)
  | cmplFail (err : Nat)
  | done (result : RunResult) (ckskip : Bool)
deriving DecidableEq, Repr

/-- A synchronous failure with the information recorded (60_exceptions.md R121). -/
inductive SyncFailure where
  /-- E_ILLEGAL(word). -/
  | illegal (word : Word)
  /-- E_VALIDATION(nid). -/
  | validation (nid : Nat)
  /-- E_INDEX(n). -/
  | index (n : Nat)
  /-- E_BUSY. -/
  | busy
deriving DecidableEq, Repr

/-- The value of a successful response (30_encoding.md R57). -/
inductive RespValue where
  | temp (t : Int)
  | name (nid : Nat)
  | unit
  | byte (b : Byte)
  | accepted
deriving DecidableEq, Repr

/-- The one response an inbound command returns (30_encoding.md R57). -/
inductive Response where
  | ok (v : RespValue)
  | fail (f : SyncFailure)
deriving DecidableEq, Repr

/-- One move of an agent (00_scope.md R16): the host issues a word and the command unit runs it; the
sequencer takes its turn; the collaborator sends a notification or a completion. -/
inductive Move where
  | host (w : Word)
  | sequencer
  | readiness
  | reconnect
  | complete (c : Completion)
deriving DecidableEq, Repr

/-- The whole state of one block. `params` and `hwHandle` are what it was built with (log entry 1),
`responses` and `pending` are the model's own (log entries 3 and 11); every other field is the spec's,
with the reset table of 10_state.md section 7. A frame buffer lists the bytes that differ from its
template (log entry 5). -/
structure State where
  params    : Params
  hwHandle  : HwHandle
  temp      : Int
  fan       : Nat
  mode      : Nat
  swing     : Nat
  variant   : Variant
  fn        : List Host.Cell
  ff        : List Host.Cell
  phase     : Phase
  await     : Bool
  wave      : List Pulse
  nch       : Nat
  ci        : Nat
  handles   : List Nat
  ckskip    : Bool
  result    : RunResult
  ready     : Bool
  trace     : List Event
  responses : List Response
  pending   : List Move
deriving DecidableEq, Repr

/-- Why the machine stops with a fault. -/
inductive Fault where
  /-- Raised by the meanings of the six outbound commands where their issue step is not enabled: PHASE is
  not the command's phase, or AWAIT = 1 (45_transmission_driver.md R106). Safe: the spec gives no issue
  there, and no step of the machine asks for one. -/
  | notEnabled
deriving DecidableEq, Repr

/-- Why the model gives no meaning. -/
inductive Refusal where
  /-- Raised by no arm now: every command has a meaning. Safe. -/
  | notModelled (mnemonic : String)
  /-- Raised by every step, and by a meaning that needs a missing table entry, where the parameters fail
  10_state.md R20: no block is built of them (93_implementation_defined.md I14). Safe. -/
  | noBlock
  /-- Raised by a completion that the collaborator must not give: no command is outstanding, or the value
  is not the command's (60_exceptions.md R137, 93_implementation_defined.md I19). Safe. -/
  | outsideModel
deriving DecidableEq, Repr

/-- What a step answers. -/
abbrev Result := Host.Outcome State Fault Refusal

/-- Reset is the construction of a block from its parameters and the host's handle
(70_reset_and_hazards.md R141). The codes exist for admitted parameters (10_state.md R20 check 7). -/
def State.resetOf (p : Params) (h : HwHandle) : State where
  params    := p
  hwHandle  := h
  temp      := p.vt.defaultTemp
  fan       := (lookupCode p.vt.fanMap p.vt.defaultFan).getD 0
  mode      := (lookupCode p.vt.modeMap p.vt.defaultMode).getD 0
  swing     := (lookupCode p.vt.swingMap p.vt.defaultSwing).getD 0
  variant   := .normal
  fn        := []
  ff        := []
  phase     := .idle
  await     := false
  wave      := []
  nch       := 0
  ci        := 0
  handles   := []
  ckskip    := false
  result    := .none
  ready     := false
  trace     := []
  responses := []
  pending   := []

/-- The machine after reset. The spec leaves the parameters to the host; this is the block built with the
fixture vendor of 95_test_vectors.md section 2 and a handle (DESIGN CHOICE, log entry 2). -/
def State.reset : State := State.resetOf fixtureParams .present

end Sys2Proof.Machine
end

