-- ==== Sys2Proof/Machine/Ops.lean ====
section
/-! DEFINITION. The named operations over the frame buffers and the registers: byte reads and writes
(00_scope.md R12, 20_memory.md R35 to R40), responding and raising a failure (R13, 60_exceptions.md
R122), and the trace operations issue and DONE (45_transmission_driver.md R105, R116). -/

namespace Sys2Proof.Machine

/-- A frame buffer: the bytes that differ from the template, by rising 1-based index. -/
abbrev Memory := List Host.Cell

namespace Memory

/-- The listed byte at an index. -/
def lookup : Memory → Nat → Option Byte
  | [], _ => none
  | (a, b) :: rest, n => if a = n then some b else lookup rest n

/-- MemRead over a template (00_scope.md R12): the listed byte, else the template's; none where the index
is outside 1..length (20_memory.md R39). -/
def read (template : List Byte) (m : Memory) (n : Nat) : Option Byte :=
  match templateByte template n with
  | none => none
  | some d => some ((lookup m n).getD d)

/-- The list without any entry at an index. -/
def erase : Memory → Nat → Memory
  | [], _ => []
  | (a, b) :: rest, n => if a = n then erase rest n else (a, b) :: erase rest n

/-- The list with an entry at an index, kept in rising order. -/
def insert : Memory → Nat → Byte → Memory
  | [], n, v => [(n, v)]
  | (a, b) :: rest, n, v =>
    if n < a then (n, v) :: (a, b) :: rest
    else if n = a then (n, v) :: rest
    else (a, b) :: insert rest n v

/-- MemWrite over a template (00_scope.md R12), none where the index is outside 1..length. Writing what
the template holds takes the entry away. -/
def write (template : List Byte) (m : Memory) (n : Nat) (v : Byte) : Option Memory :=
  match templateByte template n with
  | none => none
  | some d => some (if v = d then erase m n else insert m n v)

/-- Every address is above `k` and they rise strictly. -/
def risingFrom : Nat → Memory → Bool
  | _, [] => true
  | k, (a, _) :: rest => decide (k < a) && risingFrom a rest

/-- No entry repeats the template, and each has an index the template has. -/
def differs (template : List Byte) (m : Memory) : Bool :=
  m.all fun c =>
    match templateByte template c.1 with
    | some d => decide (c.2 ≠ d)
    | none => false

/-- The canonical form: rising addresses from 1 on, and only bytes that differ from the template. -/
def wf (template : List Byte) (m : Memory) : Bool := risingFrom 0 m && differs template m

/-- The frame's bytes from index `n` on, for the rest of its template. -/
def bytesFrom (m : Memory) : Nat → List Byte → List Byte
  | _, [] => []
  | n, d :: rest => (lookup m n).getD d :: bytesFrom m (n + 1) rest

end Memory

namespace State

/-- The reset contents of a frame buffer (10_state.md R25). -/
def template (s : State) : FrameSpace → List Byte
  | .fn => s.params.vt.frameOn
  | .ff => s.params.vt.offTemplate

/-- A frame buffer's listed bytes. -/
def cells (s : State) : FrameSpace → Memory
  | .fn => s.fn
  | .ff => s.ff

/-- The state with a frame buffer's listed bytes replaced. -/
def setCells (s : State) : FrameSpace → Memory → State
  | .fn, m => { s with fn := m }
  | .ff, m => { s with ff := m }

/-- `MemRead(S, n, 1)` (00_scope.md R12). -/
def memRead (s : State) (S : FrameSpace) (n : Nat) : Option Byte :=
  (s.cells S).read (s.template S) n

/-- `MemWrite(S, n, 1, v)` (00_scope.md R12); none where S has no byte n. -/
def memWrite (s : State) (S : FrameSpace) (n : Nat) (v : Byte) : Option State :=
  match (s.cells S).write (s.template S) n v with
  | some m => some (s.setCells S m)
  | none => none

/-- A frame buffer as its list of bytes, byte 1 first (20_memory.md R37). -/
def frame (s : State) (S : FrameSpace) : List Byte := (s.cells S).bytesFrom 1 (s.template S)

/-- The active frame ACT (20_memory.md R36). -/
def activeSpace (s : State) : FrameSpace :=
  match s.variant with
  | .normal => .fn
  | .off => .ff

/-- The response of an inbound command (30_encoding.md R57). -/
def answer (s : State) (r : Response) : State := { s with responses := s.responses ++ [r] }

/-- `respond(OK(v))` (00_scope.md R13). -/
def respond (s : State) (v : RespValue) : State := s.answer (.ok v)

/-- `raise E_X(info)` (60_exceptions.md R122): TAKING A FAILURE. It ends the command with the response
FAIL(E_X) and changes nothing else; there is no vector, mode or saved state (R133), and nothing to
return to but the next inbound command (R134). -/
def raise (s : State) (f : SyncFailure) : State := s.answer (.fail f)

/-- An event is appended to the trace (45_transmission_driver.md R105). -/
def record (s : State) (e : Event) : State := { s with trace := s.trace ++ [e] }

/-- `issue(cmd)` (45_transmission_driver.md R105, R106). -/
def issue (s : State) (c : Outbound) : State := { s.record (.issue c) with await := true }

/-- A run ends: RESULT and PHASE are written and DONE is signalled (45_transmission_driver.md R108, R115,
R116). -/
def finish (s : State) (r : RunResult) (ph : Phase) : State :=
  { s with result := r, phase := ph, trace := s.trace ++ [.done r s.ckskip] }

/-- The failure step of a run (45_transmission_driver.md R108, 60_exceptions.md R133): nothing is rolled
back. -/
def failRun (s : State) (f : RunFailure) : State := s.finish (.fail f) .doneFail

end State

/-- A block is built of admitted parameters only (70_reset_and_hazards.md R141;
93_implementation_defined.md I14). -/
def buildBlock (p : Params) (h : HwHandle) : Option State :=
  if p.admitted then some (State.resetOf p h) else none

/-- A step on a state that exists: none means that the parameters lack an entry the rule needs, and no
block is built of them (log entry 13). -/
def nextOrNoBlock : Option State → Result
  | some s => .next s
  | none => .refused .noBlock

/-- The tag of an outbound command (30_encoding.md R63). -/
def Outbound.tag : Outbound → Byte
  | .modeSet _ _ => 0x80#8
  | .waveClear => 0x81#8
  | .waveAddPulse _ => 0x82#8
  | .waveCreate => 0x83#8
  | .waveChainTx _ => 0x84#8
  | .write _ _ => 0x85#8

/-- The numeric code of a synchronous failure (60_exceptions.md R121). -/
def SyncFailure.code : SyncFailure → Nat
  | .illegal _ => 1
  | .validation _ => 2
  | .index _ => 3
  | .busy => 4

/-- The numeric code of a run's failure (60_exceptions.md R121). -/
def RunFailure.code : RunFailure → Nat
  | .noHandle => 5
  | .hw _ _ => 6

end Sys2Proof.Machine
end

