-- ==== Sys2Proof/Machine/Operands.lean ====
section
/-! DEFINITION. The operand forms: fields of the normal frame (10_state.md R19), option names
(40_protocol_state.md R65), the temperature operand (R66), byte indices of the active frame
(20_memory.md R36, R39), and the arguments of the outbound commands (30_encoding.md R63). -/

namespace Sys2Proof.Machine

/-- `slice(xs, a, b)` (00_scope.md R11). -/
def slice {α : Type} (xs : List α) (a b : Nat) : List α := (xs.take b).drop a

/-- Chunk i of a wave (45_transmission_driver.md R112). -/
def chunkOf (chunkSize : Nat) (wave : List Pulse) (i : Nat) : List Pulse :=
  slice wave (i * chunkSize) (i * chunkSize + chunkSize)

/-- The number of chunks of a wave (45_transmission_driver.md R104). -/
def chunkCount (chunkSize : Nat) (wave : List Pulse) : Nat := wave.length / chunkSize + 1

namespace State

/-- `FieldRead(S, f)` (10_state.md R19). -/
def fieldRead (s : State) (S : FrameSpace) (f : Field) : Option Nat :=
  (s.memRead S f.pos).map f.extract

/-- `FieldWrite(S, f, v)` (10_state.md R19). -/
def fieldWrite (s : State) (S : FrameSpace) (f : Field) (v : Nat) : Option State :=
  match s.memRead S f.pos with
  | some b => s.memWrite S f.pos (f.insert b v)
  | none => none

/-- The temperature clamped to the vendor's bounds (40_protocol_state.md R66). -/
def clampTemp (s : State) (t : Int) : Int := clamp t s.params.vt.tempMin s.params.vt.tempMax

/-- The power field is written where the vendor has one (40_protocol_state.md R70, R71). -/
def writePower (s : State) (value : PowerField → Nat) : Option State :=
  match s.params.vt.fldPower with
  | some pf => s.fieldWrite .fn pf.field (value pf)
  | none => some s

/-- READ_BYTE's operand: byte n of the active frame, none where n is outside 1..|ACT|
(40_protocol_state.md R72). -/
def activeByte (s : State) (n : Nat) : Option Byte := s.memRead s.activeSpace n

/-- The chunk the ADD phase sends (45_transmission_driver.md R112). -/
def chunk (s : State) : List Pulse := chunkOf s.params.chunkSize s.wave s.ci

end State

end Sys2Proof.Machine
end

