-- ==== Sys2Proof/Machine/Flags.lean ====
section
/-! DEFINITION. The status the block computes: the checksum with its failure sentinel and CKSKIP
(41_checksum.md R76 to R81, 10_state.md R30), and the phases in which a run is in flight
(45_transmission_driver.md R104, R120). -/

namespace Sys2Proof.Machine

/-- The sum of the bytes CK_LO..CK_HI as unsigned values (41_checksum.md R76, 20_memory.md R38). -/
def checksumSum (vt : VendorTable) (F : List Byte) : Nat :=
  ((slice F (vt.ckLo - 1) vt.ckHi).map (·.toNat)).sum

/-- The Euclidean remainder modulo 256 as a byte (41_checksum.md R77). -/
def euclidByte (x : Int) : Byte := BitVec.ofNat 8 (x % 256).toNat

/-- The other reading of the remainder (93_implementation_defined.md I5): truncating, then the low eight
bits in two's complement. Nothing uses it; a statement says that it gives the same byte (41_checksum.md
R77; log entry 21). -/
def truncByte (x : Int) : Byte := BitVec.ofInt 8 (x.tmod 256)

/-- CHECKSUM (41_checksum.md R76): none is the failure sentinel (R78). -/
def checksum (vt : VendorTable) (F : List Byte) : Option Byte :=
  if F.length ≠ vt.ckLen then none
  else match vt.ckKind with
    | .negsum => some (euclidByte ((vt.ckConst : Int) - (checksumSum vt F : Int)))
    | .sum => some (euclidByte (checksumSum vt F : Int))

/-- The checksum of the active frame (41_checksum.md R81). -/
def State.activeChecksum (s : State) : Option Byte := checksum s.params.vt (s.frame s.activeSpace)

/-- The caller's duty (41_checksum.md R79): the byte is written into ACT at CK_POS and CKSKIP cleared, or
the frame is left as it is and CKSKIP set. -/
def State.writeChecksum (s : State) : Option State :=
  match s.activeChecksum with
  | some c => (s.memWrite s.activeSpace s.params.vt.ckPos c).map fun t => { t with ckskip := false }
  | none => some { s with ckskip := true }

/-- A run is in flight (45_transmission_driver.md R104, R120). -/
def Phase.inFlight : Phase → Bool
  | .idle => false
  | .doneOk => false
  | .doneFail => false
  | .waitReady => true
  | .modeset => true
  | .clear => true
  | .add => true
  | .create => true
  | .chain => true
  | .deact => true

end Sys2Proof.Machine
end

