-- ==== Sys2Proof/Machine/Signal.lean ====
section
/-! DEFINITION. From a frame to a wave: the Pulse Train Generator (42_pulse_train.md R83), the Carrier
Modulator (43_carrier_modulator.md R92, R93) and the Wave Assembler (44_wave_assembler.md R97). All are
pure functions of the block, evaluated in the SEND_WAVE acceptance step (30_encoding.md R64). -/

namespace Sys2Proof.Machine

/-- `ON(d)` (00_scope.md R14, 30_encoding.md R59). -/
def pulseOn (p : Params) (d : Nat) : Pulse := ⟨1#32 <<< p.emitPin, 0#32, BitVec.ofNat 32 d⟩

/-- `OFF(d)` (00_scope.md R14, 30_encoding.md R59). -/
def pulseOff (p : Params) (d : Nat) : Pulse := ⟨0#32, 1#32 <<< p.emitPin, BitVec.ofNat 32 d⟩

/-- The duration that sends a bit (42_pulse_train.md R83). -/
def bitDuration (vt : VendorTable) (bit : Bool) : Nat := if bit then vt.tOne else vt.tZero

/-- The durations of one byte: bit 0 first, a gap after each (42_pulse_train.md R83). -/
def encodeByte (vt : VendorTable) (b : Byte) : List Nat :=
  (List.range 8).flatMap fun j => [bitDuration vt (b.getLsbD j), vt.tGap]

/-- ENCODE_FRAME (42_pulse_train.md R83): the three header durations, then the bytes in order. -/
def encodeFrame (vt : VendorTable) (F : List Byte) : List Nat :=
  [vt.tHdrMark, vt.tHdrSpace, vt.tGap] ++ F.flatMap (encodeByte vt)

/-- `n / m` rounded to the nearest integer, an exact half by the tie rule (00_scope.md R10;
93_implementation_defined.md I3). -/
def roundQuotient (tie : CarrierTie) (n m : Nat) : Nat :=
  match tie with
  | .up => (2 * n + m) / (2 * m)
  | .down => (2 * n + m - 1) / (2 * m)
  | .even =>
    if 2 * (n % m) < m then n / m
    else if m < 2 * (n % m) then n / m + 1
    else n / m + (n / m) % 2

/-- CARRIER_COUNT (43_carrier_modulator.md R92): `2·d / P` rounded, with P = 10^6 / F_CARRIER µs under the
spec's reading and 26 µs under the other (93_implementation_defined.md I4). -/
def carrierCount (p : Params) (d : Nat) : Nat :=
  match p.carrierPeriod with
  | .exactPeriod => roundQuotient p.carrierTie (2 * d * fCarrier) 1000000
  | .rounded26 => roundQuotient p.carrierTie (2 * d) 26

/-- Half-cycle k of a burst: ON at even k, OFF at odd k (43_carrier_modulator.md R93). -/
def halfCycle (p : Params) (k : Nat) : Pulse := if k % 2 = 0 then pulseOn p tHalf else pulseOff p tHalf

/-- MODULATE (43_carrier_modulator.md R93). -/
def modulate (p : Params) (d : Nat) : List Pulse := (List.range (carrierCount p d)).map (halfCycle p)

/-- The pulse instructions of a train whose first element is a mark or a space: marks become bursts, a
space one OFF instruction (44_wave_assembler.md R97). -/
def assembleFrom (p : Params) : Bool → List Nat → List Pulse
  | _, [] => []
  | true, d :: rest => modulate p d ++ assembleFrom p false rest
  | false, d :: rest => pulseOff p d :: assembleFrom p true rest

/-- The two terminal deasserting instructions (44_wave_assembler.md R98). -/
def waveTail (p : Params) : List Pulse := [pulseOff p p.tTail1, pulseOff p p.tTail2]

/-- ASSEMBLE (44_wave_assembler.md R97): index 0 of the train is a mark. -/
def assemble (p : Params) (train : List Nat) : List Pulse := assembleFrom p true train ++ waveTail p

/-- The wave of a frame (45_transmission_driver.md R104). -/
def waveOf (p : Params) (F : List Byte) : List Pulse := assemble p (encodeFrame p.vt F)

end Sys2Proof.Machine
end

