-- ==== Sys2Proof/Syntax.lean ====
section
/-! DEFINITION. The commands of the block as data: the nine inbound commands (30_encoding.md R51), the six
outbound commands (R63), the two encoded forms, and the assembly lines (R58). -/

namespace Sys2Proof

/-- One constructor per row of spec/opcode_table.json. An outbound command has no operand in its encoding:
its argument comes from the block's state and parameters (30_encoding.md R63). -/
inductive Instr where
  /-- SET_TEMP t (30_encoding.md R52). -/
  | setTemp (t : Int)
  /-- SET_FAN nid (30_encoding.md R53). -/
  | setFan (nid : Nat)
  /-- SET_MODE nid (30_encoding.md R53). -/
  | setMode (nid : Nat)
  /-- SET_SWING nid (30_encoding.md R53). -/
  | setSwing (nid : Nat)
  /-- TURN_ON (40_protocol_state.md R70). -/
  | turnOn
  /-- TURN_OFF (40_protocol_state.md R71). -/
  | turnOff
  /-- SEND_WAVE (45_transmission_driver.md R104). -/
  | sendWave
  /-- READ_BYTE n (30_encoding.md R54). -/
  | readByte (n : Nat)
  /-- WRITE_BYTE v, n (30_encoding.md R54). -/
  | writeByte (v : Byte) (n : Nat)
  /-- MODE_SET (45_transmission_driver.md R110). -/
  | modeSet
  /-- WAVE_CLEAR (45_transmission_driver.md R111). -/
  | waveClear
  /-- WAVE_ADD_PULSE (45_transmission_driver.md R112). -/
  | waveAddPulse
  /-- WAVE_CREATE (45_transmission_driver.md R113). -/
  | waveCreate
  /-- WAVE_CHAIN_TX (45_transmission_driver.md R114). -/
  | waveChainTx
  /-- WRITE (45_transmission_driver.md R115). -/
  | write
deriving DecidableEq, Repr

/-- The two encoded forms: a 32-bit inbound command word (30_encoding.md R50) and the 8-bit tag of an
outbound command (R63). -/
inductive Code where
  | cmd32 (w : Word)
  | out8 (tag : Byte)
deriving DecidableEq, Repr

/-- Why a code stands for no command (30_encoding.md R55). The block reports the first two as E_ILLEGAL. -/
inductive DecodeError where
  /-- OPC is 0x00 or in 0x0A..0xFF. -/
  | reservedOpcode (opc : Byte)
  /-- A known OPC with a nonzero bit among its required-zero bits. -/
  | requiredZero (opc : Byte)
  /-- No outbound command has this tag (30_encoding.md R63). -/
  | reservedTag (tag : Byte)
deriving DecidableEq, Repr

/-- One line of assembly text (30_encoding.md R58). -/
inductive AsmLine where
  | setTemp (t : Int)
  | setFan (name : String)
  | setMode (name : String)
  | setSwing (name : String)
  | turnOn
  | turnOff
  | sendWave
  | readByte (n : Nat)
  | writeByte (value : Nat) (n : Nat)
deriving DecidableEq, Repr

end Sys2Proof
end

