-- ==== Sys2Proof/Machine/Driver.lean ====
section
/-! DEFINITION. The Transmission Driver's commands: SEND_WAVE's acceptance (45_transmission_driver.md R104),
the issue step of each outbound command and its success successor (R106, R110 to R115). -/

namespace Sys2Proof.Machine

/-- The run registers as acceptance leaves them before the handle is looked at: the snapshot's wave, its
chunks, and nothing issued (45_transmission_driver.md R104). -/
def State.loadRun (s : State) : State :=
  let wave := waveOf s.params (s.frame s.activeSpace)
  { s with
    wave := wave, nch := chunkCount s.params.chunkSize wave, ci := 0, handles := [], await := false }

/-- The run starts, or fails at once for want of a handle (45_transmission_driver.md R104,
60_exceptions.md R126). -/
def State.startRun (s : State) : State :=
  match s.hwHandle with
  | .absent => s.failRun .noHandle
  | .present => { s with result := .pending, phase := .waitReady }

/-- SEND_WAVE (45_transmission_driver.md R104). -/
def execSendWave (s : State) : Result :=
  if s.phase.inFlight then .next (s.raise .busy)
  else nextOrNoBlock (s.writeChecksum.map fun s' => s'.loadRun.startRun.respond .accepted)

/-- The issue step of a phase (45_transmission_driver.md R106), enabled where PHASE is the command's and
AWAIT = 0. -/
def issueIn (ph : Phase) (c : Outbound) (s : State) : Result :=
  if s.phase = ph ∧ s.await = false then .next (s.issue c) else .fault .notEnabled

/-- MODE_SET(EMIT_PIN, OUTPUT) (45_transmission_driver.md R110). -/
def execModeSet (s : State) : Result := issueIn .modeset (.modeSet s.params.emitPin .output) s

/-- WAVE_CLEAR (45_transmission_driver.md R111). -/
def execWaveClear (s : State) : Result := issueIn .clear .waveClear s

/-- WAVE_ADD_PULSE of the current chunk (45_transmission_driver.md R112). -/
def execWaveAddPulse (s : State) : Result := issueIn .add (.waveAddPulse s.chunk) s

/-- WAVE_CREATE (45_transmission_driver.md R113). -/
def execWaveCreate (s : State) : Result := issueIn .create .waveCreate s

/-- WAVE_CHAIN_TX(HANDLES) (45_transmission_driver.md R114). -/
def execWaveChainTx (s : State) : Result := issueIn .chain (.waveChainTx s.handles) s

/-- WRITE(EMIT_PIN, 0) (45_transmission_driver.md R115). -/
def execWrite (s : State) : Result := issueIn .deact (.write s.params.emitPin 0) s

/-- MODE_SET completed OK (45_transmission_driver.md R110). -/
def State.modeSetDone (s : State) : State := { s with phase := .clear }

/-- WAVE_CLEAR completed OK (45_transmission_driver.md R111). -/
def State.waveClearDone (s : State) : State := { s with ci := 0, phase := .add }

/-- WAVE_ADD_PULSE completed OK (45_transmission_driver.md R112). -/
def State.waveAddPulseDone (s : State) : State := { s with phase := .create }

/-- WAVE_CREATE completed OK with a handle (45_transmission_driver.md R113). -/
def State.waveCreateDone (h : Nat) (s : State) : State :=
  if s.ci + 1 < s.nch then { s with handles := s.handles ++ [h], ci := s.ci + 1, phase := .add }
  else { s with handles := s.handles ++ [h], phase := .chain }

/-- WAVE_CHAIN_TX completed OK (45_transmission_driver.md R114). -/
def State.waveChainTxDone (s : State) : State := { s with phase := .deact }

/-- WRITE completed OK: the run ends (45_transmission_driver.md R115). -/
def State.writeDone (s : State) : State := s.finish .ok .doneOk

/-- The outbound command of a phase (45_transmission_driver.md R110 to R115). -/
def Phase.command : Phase → Option Instr
  | .modeset => some .modeSet
  | .clear => some .waveClear
  | .add => some .waveAddPulse
  | .create => some .waveCreate
  | .chain => some .waveChainTx
  | .deact => some .write
  | .idle => none
  | .waitReady => none
  | .doneOk => none
  | .doneFail => none

/-- The tag of a phase's outbound command (30_encoding.md R63). -/
def Phase.tag : Phase → Option Byte
  | .modeset => some 0x80#8
  | .clear => some 0x81#8
  | .add => some 0x82#8
  | .create => some 0x83#8
  | .chain => some 0x84#8
  | .deact => some 0x85#8
  | .idle => none
  | .waitReady => none
  | .doneOk => none
  | .doneFail => none

end Sys2Proof.Machine
end

