-- ==== Sys2Proof/Machine/Encoder.lean ====
section
/-! DEFINITION. The AC Protocol State commands (40_protocol_state.md R66 to R73): the setters, the power
commands and the byte accessors. -/

namespace Sys2Proof.Machine

/-- SET_TEMP (40_protocol_state.md R66). -/
def execSetTemp (t : Int) (s : State) : Result :=
  nextOrNoBlock do
    let e ← encodeTemp s.params.vt.encTemp (s.clampTemp t)
    let s' ← s.fieldWrite .fn s.params.vt.fldTemp e
    return { s' with temp := s.clampTemp t }.respond (.temp (s.clampTemp t))

/-- The shared body of the three option setters: an unknown name raises E_VALIDATION and changes nothing;
a known one writes its code into its field of FN and its register, and the name is answered
(40_protocol_state.md R65, R67, R68, R69). -/
def setOption (map : List (Nat × Nat)) (f : Field) (nid : Nat) (store : State → Nat → State)
    (s : State) : Result :=
  match lookupCode map nid with
  | none => .next (s.raise (.validation nid))
  | some c => nextOrNoBlock ((s.fieldWrite .fn f c).map fun s' => (store s' c).respond (.name nid))

/-- SET_FAN (40_protocol_state.md R67). -/
def execSetFan (nid : Nat) (s : State) : Result :=
  setOption s.params.vt.fanMap s.params.vt.fldFan nid (fun s' c => { s' with fan := c }) s

/-- SET_MODE (40_protocol_state.md R68). -/
def execSetMode (nid : Nat) (s : State) : Result :=
  setOption s.params.vt.modeMap s.params.vt.fldMode nid (fun s' c => { s' with mode := c }) s

/-- SET_SWING (40_protocol_state.md R69). -/
def execSetSwing (nid : Nat) (s : State) : Result :=
  setOption s.params.vt.swingMap s.params.vt.fldSwing nid (fun s' c => { s' with swing := c }) s

/-- TURN_ON (40_protocol_state.md R70). -/
def execTurnOn (s : State) : Result :=
  nextOrNoBlock ((s.writePower (·.pwrOn)).map fun s' => { s' with variant := .normal }.respond .unit)

/-- The variant TURN_OFF selects: OFF where the vendor has a power-off frame, else unchanged
(40_protocol_state.md R71). -/
def offVariant (s : State) : Variant := if s.params.vt.frameOff.isSome then .off else s.variant

/-- TURN_OFF (40_protocol_state.md R71). -/
def execTurnOff (s : State) : Result :=
  nextOrNoBlock
    ((s.writePower (·.pwrOff)).map fun s' => { s' with variant := offVariant s }.respond .unit)

/-- READ_BYTE (40_protocol_state.md R72). -/
def execReadByte (n : Nat) (s : State) : Result :=
  match s.activeByte n with
  | some b => .next (s.respond (.byte b))
  | none => .next (s.raise (.index n))

/-- WRITE_BYTE (40_protocol_state.md R73). -/
def execWriteByte (v : Byte) (n : Nat) (s : State) : Result :=
  match s.memWrite s.activeSpace n v with
  | some s' => .next (s'.respond .unit)
  | none => .next (s.raise (.index n))

end Sys2Proof.Machine
end

