-- ==== Sys2Proof/Machine/Dispatch.lean ====
section
/-! DEFINITION. Every command's meaning, one arm each. -/

namespace Sys2Proof.Machine

def exec (i : Instr) (s : State) : Host.Outcome State Fault Refusal :=
  match i with
  | .setTemp t => Sys2Proof.Machine.execSetTemp t s
  | .setFan nid => Sys2Proof.Machine.execSetFan nid s
  | .setMode nid => Sys2Proof.Machine.execSetMode nid s
  | .setSwing nid => Sys2Proof.Machine.execSetSwing nid s
  | .turnOn => Sys2Proof.Machine.execTurnOn s
  | .turnOff => Sys2Proof.Machine.execTurnOff s
  | .sendWave => Sys2Proof.Machine.execSendWave s
  | .readByte n => Sys2Proof.Machine.execReadByte n s
  | .writeByte v n => Sys2Proof.Machine.execWriteByte v n s
  | .modeSet => Sys2Proof.Machine.execModeSet s
  | .waveClear => Sys2Proof.Machine.execWaveClear s
  | .waveAddPulse => Sys2Proof.Machine.execWaveAddPulse s
  | .waveCreate => Sys2Proof.Machine.execWaveCreate s
  | .waveChainTx => Sys2Proof.Machine.execWaveChainTx s
  | .write => Sys2Proof.Machine.execWrite s

end Sys2Proof.Machine
end

