-- ==== Sys2Proof/WellFormed.lean ====
section
/-! DEFINITION. Which commands have an encoding: every operand lies in the range its field can hold
(30_encoding.md R52, R53, R54). -/

namespace Sys2Proof

/-- The operand ranges of the command word. -/
def Instr.wf : Instr → Bool
  | .setTemp t => decide (-8388608 ≤ t) && decide (t ≤ 8388607)
  | .setFan nid => decide (nid < 2 ^ 24)
  | .setMode nid => decide (nid < 2 ^ 24)
  | .setSwing nid => decide (nid < 2 ^ 24)
  | .readByte n => decide (n < 2 ^ 8)
  | .writeByte _ n => decide (n < 2 ^ 8)
  | .turnOn => true
  | .turnOff => true
  | .sendWave => true
  | .modeSet => true
  | .waveClear => true
  | .waveAddPulse => true
  | .waveCreate => true
  | .waveChainTx => true
  | .write => true

/-- The inbound commands, those the host issues (30_encoding.md R51). -/
def Instr.inbound : Instr → Bool
  | .setTemp _ => true
  | .setFan _ => true
  | .setMode _ => true
  | .setSwing _ => true
  | .turnOn => true
  | .turnOff => true
  | .sendWave => true
  | .readByte _ => true
  | .writeByte _ _ => true
  | .modeSet => false
  | .waveClear => false
  | .waveAddPulse => false
  | .waveCreate => false
  | .waveChainTx => false
  | .write => false

end Sys2Proof
end

