-- ==== Sys2Proof/Decode.lean ====
section
/-! DEFINITION. Decoding the inbound command word (30_encoding.md R50 to R56) and the outbound tag (R63),
total on every code and rejecting by name; after it the encoder and the assembler (R58). -/

namespace Sys2Proof

/-- OPC = word[7:0] (30_encoding.md R50). -/
def opcode (w : Word) : Byte := w.extractLsb' 0 8

/-- OPD = word[31:8] (30_encoding.md R50). -/
def operand (w : Word) : BitVec 24 := w.extractLsb' 8 24

/-- A command without operands: word[31:8] must be 0 (30_encoding.md R51). -/
def decodeBare (i : Instr) (w : Word) : Except DecodeError Instr :=
  if operand w = 0#24 then .ok i else .error (.requiredZero (opcode w))

/-- READ_BYTE: N = word[15:8], and word[31:16] must be 0 (30_encoding.md R51, R54). -/
def decodeReadByte (w : Word) : Except DecodeError Instr :=
  if w.extractLsb' 16 16 = 0#16 then .ok (.readByte (w.extractLsb' 8 8).toNat)
  else .error (.requiredZero (opcode w))

/-- WRITE_BYTE: N = word[15:8], V = word[23:16], and word[31:24] must be 0 (30_encoding.md R51, R54). -/
def decodeWriteByte (w : Word) : Except DecodeError Instr :=
  if w.extractLsb' 24 8 = 0#8 then
    .ok (.writeByte (w.extractLsb' 16 8) (w.extractLsb' 8 8).toNat)
  else .error (.requiredZero (opcode w))

/-- The inbound decoder (30_encoding.md R56). -/
def decodeWord (w : Word) : Except DecodeError Instr :=
  match (opcode w).toNat with
  | 0x01 => .ok (.setTemp (operand w).toInt)
  | 0x02 => .ok (.setFan (operand w).toNat)
  | 0x03 => .ok (.setMode (operand w).toNat)
  | 0x04 => .ok (.setSwing (operand w).toNat)
  | 0x05 => decodeBare .turnOn w
  | 0x06 => decodeBare .turnOff w
  | 0x07 => decodeBare .sendWave w
  | 0x08 => decodeReadByte w
  | 0x09 => decodeWriteByte w
  | _ => .error (.reservedOpcode (opcode w))

/-- The outbound command of a tag (30_encoding.md R63). The block emits tags and never decodes one: this is
the opcode table's reading of them (DESIGN CHOICE, log entry 14). -/
def decodeTag (tag : Byte) : Except DecodeError Instr :=
  match tag.toNat with
  | 0x80 => .ok .modeSet
  | 0x81 => .ok .waveClear
  | 0x82 => .ok .waveAddPulse
  | 0x83 => .ok .waveCreate
  | 0x84 => .ok .waveChainTx
  | 0x85 => .ok .write
  | _ => .error (.reservedTag tag)

/-- Decoding of either form. -/
def decode : Code → Except DecodeError Instr
  | .cmd32 w => decodeWord w
  | .out8 tag => decodeTag tag

/-- The command word with this operand and opcode (30_encoding.md R50). -/
def commandWord (opd : BitVec 24) (opc : Byte) : Word := opd ++ opc

/-- The encoder, from the tables of 30_encoding.md R51 and R63. -/
def encode : Instr → Code
  | .setTemp t => .cmd32 (commandWord (BitVec.ofInt 24 t) 0x01#8)
  | .setFan nid => .cmd32 (commandWord (BitVec.ofNat 24 nid) 0x02#8)
  | .setMode nid => .cmd32 (commandWord (BitVec.ofNat 24 nid) 0x03#8)
  | .setSwing nid => .cmd32 (commandWord (BitVec.ofNat 24 nid) 0x04#8)
  | .turnOn => .cmd32 (commandWord 0#24 0x05#8)
  | .turnOff => .cmd32 (commandWord 0#24 0x06#8)
  | .sendWave => .cmd32 (commandWord 0#24 0x07#8)
  | .readByte n => .cmd32 (commandWord (0#16 ++ BitVec.ofNat 8 n) 0x08#8)
  | .writeByte v n => .cmd32 (commandWord (0#8 ++ v ++ BitVec.ofNat 8 n) 0x09#8)
  | .modeSet => .out8 0x80#8
  | .waveClear => .out8 0x81#8
  | .waveAddPulse => .out8 0x82#8
  | .waveCreate => .out8 0x83#8
  | .waveChainTx => .out8 0x84#8
  | .write => .out8 0x85#8

/-- The code that a row's bits stand for: a row of 8 bits is an outbound tag, or a command word whose
operand bits are all 0 where it is no tag; a longer one is a command word (DESIGN CHOICE, log entry 14). -/
def tableCode (nbits w : Nat) : Code :=
  match decodeTag (BitVec.ofNat 8 w) with
  | .ok _ => if nbits ≤ 8 then .out8 (BitVec.ofNat 8 w) else .cmd32 (BitVec.ofNat 32 w)
  | .error _ => .cmd32 (BitVec.ofNat 32 w)

/-- The command the decoder reads from a table row's bits. -/
def decodeTableWord (nbits w : Nat) : Option Instr :=
  match decode (tableCode nbits w) with
  | .ok i => some i
  | .error _ => none

/-- The position of a name in a list of names, counted from `k`. -/
def nameIndexFrom (name : String) : Nat → List String → Option Nat
  | _, [] => none
  | k, x :: xs => if x = name then some k else nameIndexFrom name (k + 1) xs

/-- The nid a name assembles to: its index in NAMES, or 0xFFFFFF where it is not there
(30_encoding.md R58). -/
def assembleName (names : List String) (name : String) : Nat :=
  match nameIndexFrom name 0 names with
  | some k => k
  | none => 0xFFFFFF

/-- The value operand of WRITE_BYTE, which must be a byte (30_encoding.md R54). -/
def assembleWriteByte (value n : Nat) : Option Instr :=
  if value < 256 then some (.writeByte (BitVec.ofNat 8 value) n) else none

/-- The command of an assembly line, before its operand range is checked (30_encoding.md R58). -/
def assembleInstr (names : List String) : AsmLine → Option Instr
  | .setTemp t => some (.setTemp t)
  | .setFan name => some (.setFan (assembleName names name))
  | .setMode name => some (.setMode (assembleName names name))
  | .setSwing name => some (.setSwing (assembleName names name))
  | .turnOn => some .turnOn
  | .turnOff => some .turnOff
  | .sendWave => some .sendWave
  | .readByte n => some (.readByte n)
  | .writeByte value n => assembleWriteByte value n

/-- The code an assembly line assembles to; none where an operand does not fit its field
(30_encoding.md R58; log entry 16). -/
def assembleLine (names : List String) (line : AsmLine) : Option Code :=
  match assembleInstr names line with
  | some i => if i.wf then some (encode i) else none
  | none => none

/-- The text of an assembly line (30_encoding.md R58), numbers in decimal (DESIGN CHOICE, log entry 16). -/
def AsmLine.text : AsmLine → String
  | .setTemp t => "SET_TEMP " ++ toString t
  | .setFan name => "SET_FAN " ++ name
  | .setMode name => "SET_MODE " ++ name
  | .setSwing name => "SET_SWING " ++ name
  | .turnOn => "TURN_ON"
  | .turnOff => "TURN_OFF"
  | .sendWave => "SEND_WAVE"
  | .readByte n => "READ_BYTE " ++ toString n
  | .writeByte value n => "WRITE_BYTE " ++ toString value ++ ", " ++ toString n

end Sys2Proof
end

