-- ==== Sys2Proof/Machine/Collaborator.lean ====
section
/-! DEFINITION. What the collaborator does to the block: the readiness and reconnect notifications
(60_exceptions.md R129, R130) and the completion of the outstanding command (45_transmission_driver.md
R106 to R108, R110 to R115). -/

namespace Sys2Proof.Machine

/-- The readiness notification (60_exceptions.md R129). -/
def State.notifyReady (s : State) : State := { s with ready := true }

/-- The reconnect notification changes no state (60_exceptions.md R130). -/
def State.notifyReconnect (s : State) : State := s

/-- A completion as it lands: it is recorded and AWAIT is cleared (45_transmission_driver.md R105, R106). -/
def State.landed (s : State) (e : Event) : State := { s.record e with await := false }

/-- The success successor of the phase's command, for a value of the command's kind: WAVE_CREATE returns a
handle and the others return none (45_transmission_driver.md R107, R110 to R115; log entry 9). -/
def State.succeed (s : State) : CmplValue → Option State
  | .handle h =>
    match s.phase with
    | .create => some (s.waveCreateDone h)
    | .modeset => none
    | .clear => none
    | .add => none
    | .chain => none
    | .deact => none
    | .idle => none
    | .waitReady => none
    | .doneOk => none
    | .doneFail => none
  | .unit =>
    match s.phase with
    | .modeset => some s.modeSetDone
    | .clear => some s.waveClearDone
    | .add => some s.waveAddPulseDone
    | .chain => some s.waveChainTxDone
    | .deact => some s.writeDone
    | .create => none
    | .idle => none
    | .waitReady => none
    | .doneOk => none
    | .doneFail => none

/-- What a completion makes of the state, none where the collaborator must not give it. -/
def State.completed (s : State) : Completion → Option State
  | .ok v => (s.landed (.cmplOk v)).succeed v
  | .fail err =>
    match s.phase.tag with
    | some tag => some ((s.landed (.cmplFail err)).failRun (.hw tag err))
    | none => none

/-- The collaborator completes the outstanding command (45_transmission_driver.md R107, R108); it may do so
only while AWAIT = 1 (60_exceptions.md R131; 93_implementation_defined.md I19). -/
def complete (c : Completion) (s : State) : Result :=
  if s.await then
    match s.completed c with
    | some s' => .next s'
    | none => .refused .outsideModel
  else .refused .outsideModel

end Sys2Proof.Machine
end

