-- ==== Sys2Proof/Machine/Sequencer.lean ====
section
/-! DEFINITION. Which agent moves and what command, if any, its move runs (00_scope.md R16,
45_transmission_driver.md R106, R109, 60_exceptions.md R128). -/

namespace Sys2Proof.Machine

/-- What a step turns out to be: a command to run in a state, or an outcome that runs none. -/
inductive Fetched where
  | command (i : Instr) (s : State)
  | other (r : Result)

/-- The WAIT_READY step (45_transmission_driver.md R109): enabled once READY = 1, else a wait with no
bound (70_reset_and_hazards.md R149). -/
def State.leaveWaitReady (s : State) : State :=
  if s.ready then { s with phase := .modeset, await := false } else s

/-- The sequencer's turn: the WAIT_READY step, the issue step of the phase's command while AWAIT = 0, and no
step while a completion is outstanding or no run is in flight (45_transmission_driver.md R106, R109). A
turn in which it has no step leaves the state as it is (log entry 10). -/
def sequencerTurn (s : State) : Fetched :=
  if s.phase = .waitReady then .other (.next s.leaveWaitReady)
  else if s.await then .other (.next s)
  else match s.phase.command with
    | some i => .command i s
    | none => .other (.next s)

/-- The command unit takes one word: a command to run, or E_ILLEGAL (30_encoding.md R55). -/
def commandTurn (w : Word) (s : State) : Fetched :=
  match decodeWord w with
  | .ok i => .command i s
  | .error _ => .other (.next (s.raise (.illegal w)))

/-- One move of the schedule (00_scope.md R16). -/
def takeMove (m : Move) (s : State) : Fetched :=
  match m with
  | .host w => commandTurn w s
  | .sequencer => sequencerTurn s
  | .readiness => .other (.next s.notifyReady)
  | .reconnect => .other (.next s.notifyReconnect)
  | .complete c => .other (complete c s)

/-- A move of a block that exists: parameters that build no block are refused (10_state.md R20;
93_implementation_defined.md I14). -/
def built (s : State) (move : Fetched) : Fetched :=
  if s.params.admitted then move else .other (.refused .noBlock)

/-- The next move: the head of the schedule, or the sequencer's turn when nobody else has a move to come
(log entry 3). -/
def fetch (s : State) : Fetched :=
  match s.pending with
  | [] => built s (sequencerTurn s)
  | m :: rest => built s (takeMove m { s with pending := rest })

/-- The phase whose issue step runs an outbound command (45_transmission_driver.md R110 to R115). -/
def commandPhase : Instr → Option Phase
  | .modeSet => some .modeset
  | .waveClear => some .clear
  | .waveAddPulse => some .add
  | .waveCreate => some .create
  | .waveChainTx => some .chain
  | .write => some .deact
  | .setTemp _ => none
  | .setFan _ => none
  | .setMode _ => none
  | .setSwing _ => none
  | .turnOn => none
  | .turnOff => none
  | .sendWave => none
  | .readByte _ => none
  | .writeByte _ _ => none

/-- The state in which the very next step runs a command: an inbound word is the host's next move; an
outbound command is the sequencer's next move in its phase, not yet issued (log entry 4). -/
def State.withCode (s : State) (c : Code) : State :=
  match c with
  | .cmd32 w => { s with pending := .host w :: s.pending }
  | .out8 tag =>
    match decodeTag tag with
    | .ok i => { s with pending := .sequencer :: s.pending, phase := (commandPhase i).getD s.phase, await := false }
    | .error _ => { s with pending := .sequencer :: s.pending }

end Sys2Proof.Machine
end

