-- ==== Sys2Proof/Machine/Step.lean ====
section
/-! DEFINITION. One step of the machine: one move of one agent (00_scope.md R16, 20_memory.md R41), and how
a command is placed to be the next one run. -/

namespace Sys2Proof.Machine

/-- The outcome of a move: a command's meaning, or the outcome of a move that runs no command. -/
def Fetched.run : Fetched → Result
  | .command i s => exec i s
  | .other r => r

/-- One atomic step (20_memory.md R41). -/
def step (s : State) : Host.Outcome State Fault Refusal := (fetch s).run

/-- The state whose next step runs the command of a table row (log entries 4 and 14). -/
def State.withFetchWord (s : State) (nbits w : Nat) : State := s.withCode (tableCode nbits w)

end Sys2Proof.Machine
end

