-- ==== Sys2Proof/Safety.lean ====
section
/-! DEFINITION. The terms the claims use: the invariant of a reachable state (10_state.md R22 to R28), the
agreement of the frame with the registers (R26), the command sequence of a run
(45_transmission_driver.md R117), and the counts of the trace (R106, R116). -/

namespace Sys2Proof.Machine

/-- The run registers and CKSKIP are as they were (10_state.md R27, R28). -/
def State.SameRun (s t : State) : Prop :=
  t.phase = s.phase ∧ t.await = s.await ∧ t.wave = s.wave ∧ t.nch = s.nch ∧ t.ci = s.ci ∧
    t.handles = s.handles ∧ t.ckskip = s.ckskip ∧ t.result = s.result

/-- What the block was built with, READY, the trace and the schedule are as they were. -/
def State.SameWorld (s t : State) : Prop :=
  t.params = s.params ∧ t.hwHandle = s.hwHandle ∧ t.ready = s.ready ∧ t.trace = s.trace ∧
    t.pending = s.pending

/-- TEMP, FAN, MODE and SWING are as they were (10_state.md R22, R23). -/
def State.SameSettings (s t : State) : Prop :=
  t.temp = s.temp ∧ t.fan = s.fan ∧ t.mode = s.mode ∧ t.swing = s.swing

/-- Every byte of both frame buffers but one reads as before. -/
def State.SameBytesBut (s t : State) (S : FrameSpace) (n : Nat) : Prop :=
  ∀ S' k, ¬ (S' = S ∧ k = n) → t.memRead S' k = s.memRead S' k

/-- Every byte of both frame buffers reads as before. -/
def State.SameBytes (s t : State) : Prop := ∀ S k, t.memRead S k = s.memRead S k

/-- A field of the normal frame now holds a value's bits, and every other byte reads as before
(10_state.md R19). -/
def State.FieldWritten (s t : State) (f : Field) (v : Nat) : Prop :=
  ∃ b, s.memRead .fn f.pos = some b ∧
    t.memRead .fn f.pos = some ((b &&& ~~~f.mask) ||| (BitVec.ofNat 8 (v * 2 ^ f.shift) &&& f.mask)) ∧
    s.SameBytesBut t .fn f.pos

/-- The state with one more response. -/
def State.answered (s : State) (r : Response) : State := { s with responses := s.responses ++ [r] }

/-- What a known option name leaves but its code register (40_protocol_state.md R67, R68, R69). -/
def State.OptionSet (s t : State) (f : Field) (nid c : Nat) : Prop :=
  s.FieldWritten t f c ∧ t.temp = s.temp ∧ t.variant = s.variant ∧ s.SameRun t ∧ s.SameWorld t ∧
    t.responses = s.responses ++ [.ok (.name nid)]

/-- What a power command leaves but VARIANT: the power field where there is one, and a response
(40_protocol_state.md R70, R71). -/
def State.PowerSet (s t : State) (value : PowerField → Nat) : Prop :=
  (∀ pf, s.params.vt.fldPower = some pf → s.FieldWritten t pf.field (value pf)) ∧
    (s.params.vt.fldPower = none → s.SameBytes t) ∧ s.SameSettings t ∧ s.SameRun t ∧ s.SameWorld t ∧
    t.responses = s.responses ++ [.ok .unit]

/-- The responses an inbound command may give (30_encoding.md R57, 60_exceptions.md R121). -/
def MayAnswer (i : Instr) (s : State) (r : Response) : Prop :=
  match i with
  | .setTemp t => r = .ok (.temp (s.clampTemp t))
  | .setFan nid => r = .ok (.name nid) ∨ r = .fail (.validation nid)
  | .setMode nid => r = .ok (.name nid) ∨ r = .fail (.validation nid)
  | .setSwing nid => r = .ok (.name nid) ∨ r = .fail (.validation nid)
  | .turnOn => r = .ok .unit
  | .turnOff => r = .ok .unit
  | .sendWave => r = .ok .accepted ∨ r = .fail .busy
  | .readByte n => (∃ b, s.memRead s.activeSpace n = some b ∧ r = .ok (.byte b)) ∨ r = .fail (.index n)
  | .writeByte _ n => r = .ok .unit ∨ r = .fail (.index n)
  | .modeSet => False
  | .waveClear => False
  | .waveAddPulse => False
  | .waveCreate => False
  | .waveChainTx => False
  | .write => False

/-- While a run is in flight its result is pending, it has a handle, its chunk count is that of its wave
and its wave ends in the two terminal instructions (45_transmission_driver.md R104,
44_wave_assembler.md R99). -/
structure State.RunLoaded (s : State) : Prop where
  pending : s.result = .pending
  handle  : s.hwHandle = .present
  chunks  : s.nch = chunkCount s.params.chunkSize s.wave
  tail    : waveTail s.params <:+ s.wave

/-- What the run registers hold in each phase (10_state.md R27, R28; 45_transmission_driver.md R104 to
R115). -/
def State.RunInv (s : State) : Prop :=
  match s.phase with
  | .idle =>
    s.await = false ∧ s.wave = [] ∧ s.nch = 0 ∧ s.ci = 0 ∧ s.handles = [] ∧ s.ckskip = false ∧ s.result = .none
  | .waitReady => s.RunLoaded ∧ s.await = false ∧ s.ci = 0 ∧ s.handles = []
  | .modeset => s.RunLoaded ∧ s.ready = true ∧ s.ci = 0 ∧ s.handles = []
  | .clear => s.RunLoaded ∧ s.ready = true ∧ s.ci = 0 ∧ s.handles = []
  | .add => s.RunLoaded ∧ s.ready = true ∧ s.ci < s.nch ∧ s.handles.length = s.ci
  | .create => s.RunLoaded ∧ s.ready = true ∧ s.ci < s.nch ∧ s.handles.length = s.ci
  | .chain => s.RunLoaded ∧ s.ready = true ∧ s.ci + 1 = s.nch ∧ s.handles.length = s.nch
  | .deact => s.RunLoaded ∧ s.ready = true ∧ s.ci + 1 = s.nch ∧ s.handles.length = s.nch
  | .doneOk =>
    s.await = false ∧ s.result = .ok ∧ s.nch = chunkCount s.params.chunkSize s.wave ∧
      waveTail s.params <:+ s.wave ∧ s.ci + 1 = s.nch ∧ s.handles.length = s.nch
  | .doneFail =>
    s.await = false ∧ (∃ f, s.result = .fail f) ∧ s.nch = chunkCount s.params.chunkSize s.wave ∧
      waveTail s.params <:+ s.wave ∧ s.ci < s.nch ∧ s.handles.length ≤ s.nch

/-- The invariant of a block's state: it was built of admitted parameters, its buffers are canonical, its
settings are the vendor's (10_state.md R22, R23, R24), and the run registers fit the phase. -/
structure State.Inv (s : State) : Prop where
  built    : s.params.admitted = true
  fnWf     : Memory.wf (s.template .fn) s.fn = true
  ffWf     : Memory.wf (s.template .ff) s.ff = true
  tempMin  : s.params.vt.tempMin ≤ s.temp
  tempMax  : s.temp ≤ s.params.vt.tempMax
  fan      : s.fan ∈ s.params.vt.fanMap.map (·.2)
  mode     : s.mode ∈ s.params.vt.modeMap.map (·.2)
  swing    : s.swing ∈ s.params.vt.swingMap.map (·.2)
  variant  : s.variant = .off → s.params.vt.frameOff.isSome = true
  run      : s.RunInv

/-- The fields of the normal frame hold the registers (10_state.md R26). -/
structure State.FieldsAgree (s : State) : Prop where
  temp  : ∃ e, encodeTemp s.params.vt.encTemp s.temp = some e ∧ s.fieldRead .fn s.params.vt.fldTemp = some e
  fan   : s.fieldRead .fn s.params.vt.fldFan = some s.fan
  mode  : s.fieldRead .fn s.params.vt.fldMode = some s.mode
  swing : s.fieldRead .fn s.params.vt.fldSwing = some s.swing

/-- A byte written to index n of the normal frame keeps every bit of the four setting fields
(10_state.md R26). -/
def State.KeepsSettingBits (s : State) (v : Byte) (n : Nat) : Prop :=
  ∀ f ∈ [s.params.vt.fldTemp, s.params.vt.fldFan, s.params.vt.fldMode, s.params.vt.fldSwing], f.pos = n →
    ∀ b, s.memRead .fn n = some b → v &&& f.mask = b &&& f.mask

/-- The outbound commands a trace records, in order (45_transmission_driver.md R105). -/
def issuesOf : List Event → List Outbound
  | [] => []
  | .issue c :: rest => c :: issuesOf rest
  | .cmplOk _ :: rest => issuesOf rest
  | .cmplFail _ :: rest => issuesOf rest
  | .done _ _ :: rest => issuesOf rest

/-- How many completions a trace records. -/
def completionCount : List Event → Nat
  | [] => 0
  | .issue _ :: rest => completionCount rest
  | .cmplOk _ :: rest => completionCount rest + 1
  | .cmplFail _ :: rest => completionCount rest + 1
  | .done _ _ :: rest => completionCount rest

/-- How many runs a trace records as ended. -/
def doneCount : List Event → Nat
  | [] => 0
  | .issue _ :: rest => doneCount rest
  | .cmplOk _ :: rest => doneCount rest
  | .cmplFail _ :: rest => doneCount rest
  | .done _ _ :: rest => doneCount rest + 1

/-- How many runs were accepted. -/
def acceptedCount (rs : List Response) : Nat := rs.countP (fun r => decide (r = .ok .accepted))

/-- The add and create commands of the first `k` chunks (45_transmission_driver.md R117). -/
def chunkCommands (chunkSize : Nat) (wave : List Pulse) (k : Nat) : List Outbound :=
  (List.range k).flatMap fun i => [.waveAddPulse (chunkOf chunkSize wave i), .waveCreate]

/-- The whole sequence of a run that ends in DONE_OK (45_transmission_driver.md R117). -/
def runCommands (p : Params) (wave : List Pulse) (nch : Nat) (handles : List Nat) : List Outbound :=
  [.modeSet p.emitPin .output, .waveClear] ++ chunkCommands p.chunkSize wave nch ++
    [.waveChainTx handles, .write p.emitPin 0]

/-- How many commands come before a phase's own in the sequence of a run; the phases DONE_OK and IDLE and
WAIT_READY issue none of their own. -/
def commandsBefore (nch ci : Nat) : Phase → Nat
  | .idle => 0
  | .waitReady => 0
  | .modeset => 0
  | .clear => 1
  | .add => 2 + 2 * ci
  | .create => 3 + 2 * ci
  | .chain => 2 + 2 * nch
  | .deact => 3 + 2 * nch
  | .doneOk => 4 + 2 * nch
  | .doneFail => 0

/-- The phase whose command has this tag (30_encoding.md R63). -/
def phaseOfTag (tag : Byte) : Phase :=
  if tag = 0x80#8 then .modeset
  else if tag = 0x81#8 then .clear
  else if tag = 0x82#8 then .add
  else if tag = 0x83#8 then .create
  else if tag = 0x84#8 then .chain
  else .deact

/-- How many commands the current or last run has issued: those before its phase's own and, once issued,
its own; after a failure, up to and including the failing one; none for want of a handle. -/
def State.issuedCount (s : State) : Nat :=
  match s.phase, s.result with
  | .doneFail, .fail (.hw tag _) => commandsBefore s.nch s.ci (phaseOfTag tag) + 1
  | .doneFail, _ => 0
  | ph, _ => commandsBefore s.nch s.ci ph + if s.await then 1 else 0

/-- The outbound commands the current or last run has issued (45_transmission_driver.md R117). -/
def State.runIssues (s : State) : List Outbound :=
  (runCommands s.params s.wave s.nch s.handles).take s.issuedCount

/-- The collaborator's turns in which everything succeeds, with the sequencer's turns between them, from
WAIT_READY to DONE_OK, the handles as given (45_transmission_driver.md R117). -/
def successSchedule (handles : List Nat) : List Move :=
  [.sequencer, .sequencer, .complete (.ok .unit), .sequencer, .complete (.ok .unit)] ++
    handles.flatMap (fun h => [.sequencer, .complete (.ok .unit), .sequencer, .complete (.ok (.handle h))]) ++
    [.sequencer, .complete (.ok .unit), .sequencer, .complete (.ok .unit)]

/-- The moves that are a host's word. -/
def Move.fromHost : Move → Bool
  | .host _ => true
  | .sequencer => false
  | .readiness => false
  | .reconnect => false
  | .complete _ => false

/-- `Interleaved own sched`: the schedule makes the moves of `own` in their order and ends with the last of
them, and before each there may be host words (45_transmission_driver.md R120), notifications
(60_exceptions.md R129, R130), and, before a completion, turns of the sequencer, which awaits it
(45_transmission_driver.md R106; such a turn leaves the state as it is, log entry 10). -/
inductive Interleaved : List Move → List Move → Prop where
  | done : Interleaved [] []
  | own (m : Move) {own sched : List Move} : Interleaved own sched → Interleaved (m :: own) (m :: sched)
  | host (w : Word) {m : Move} {own sched : List Move} :
      Interleaved (m :: own) sched → Interleaved (m :: own) (.host w :: sched)
  | readiness {m : Move} {own sched : List Move} :
      Interleaved (m :: own) sched → Interleaved (m :: own) (.readiness :: sched)
  | reconnect {m : Move} {own sched : List Move} :
      Interleaved (m :: own) sched → Interleaved (m :: own) (.reconnect :: sched)
  | idle {c : Completion} {own sched : List Move} :
      Interleaved (.complete c :: own) sched → Interleaved (.complete c :: own) (.sequencer :: sched)

/-- The completions that the collaborator may give in a phase (60_exceptions.md R137): a failure, a handle
for WAVE_CREATE, no value for the others. -/
def Completion.allowedIn (c : Completion) (ph : Phase) : Prop :=
  match c with
  | .fail _ => True
  | .ok (.handle _) => ph = .create
  | .ok .unit => ph ≠ .create

/-- What the source fixes of the Fujitsu table (10_state.md R21). -/
structure IsFujitsu (p : Params) : Prop where
  admitted  : p.admitted = true
  hdrMark   : p.vt.tHdrMark = 3320
  hdrSpace  : p.vt.tHdrSpace = 1580
  gap       : p.vt.tGap = 420
  temp      : p.vt.defaultTemp = 22
  mode      : p.nameOf p.vt.defaultMode = some "AUTO"
  fan       : p.nameOf p.vt.defaultFan = some "AUTO"
  swing     : p.nameOf p.vt.defaultSwing = some "OFF"
  ckByte    : templateByte p.vt.frameOn p.vt.ckPos = some 0x2E#8
  ckValue   : checksum p.vt p.vt.frameOn = some 0x2E#8

end Sys2Proof.Machine
end

