-- ==== Sys2Proof/Certificates/Slice0/Obligations.lean ====
section
/-! DEFINITION. The statements for the provers, by the order of the spec's files. -/

open Sys2Proof Sys2Proof.Machine

-- ### Encodings (30_encoding.md)

/-- Every command with operands in range decodes from its code (30_encoding.md R51, R56). The block emits the
tags of R63 and never decodes one: that a tag decodes to its command is the model's choice (log entry 14). -/
def Obligations.DecodeOfEncode : Prop :=
  ∀ i : Instr, i.wf = true → decode (encode i) = .ok i

/-- A code that decodes is the one code of a command with operands in range (30_encoding.md R51, R55). That a
tag decodes, which R63 has the block never do, is the model's choice (log entry 14). -/
def Obligations.DecodedCodeIsItsEncoding : Prop :=
  ∀ (c : Code) (i : Instr), decode c = .ok i → i.wf = true ∧ encode i = c

/-- Nine command words written out from 30_encoding.md R51 and 95_test_vectors.md section 3.1, and one tag from
the table of R63, which the block never decodes: its decoding is the model's choice (log entry 14). -/
def Obligations.WrittenOutWordsDecode : Prop :=
  decode (.cmd32 0xFFFFFB01#32) = .ok (.setTemp (-5)) ∧
  decode (.cmd32 0x80000001#32) = .ok (.setTemp (-8388608)) ∧
  decode (.cmd32 0x00000302#32) = .ok (.setFan 3) ∧
  decode (.cmd32 0x00000703#32) = .ok (.setMode 7) ∧
  decode (.cmd32 0x00000804#32) = .ok (.setSwing 8) ∧
  decode (.cmd32 0x00000005#32) = .ok .turnOn ∧
  decode (.cmd32 0x00000007#32) = .ok .sendWave ∧
  decode (.cmd32 0x00000208#32) = .ok (.readByte 2) ∧
  decode (.cmd32 0x005A0109#32) = .ok (.writeByte 0x5A#8 1) ∧
  decode (.out8 0x83#8) = .ok .waveCreate

/-- The illegal words are exactly those of 30_encoding.md R55, and running one answers E_ILLEGAL(word) and
changes no other state. -/
def Obligations.IllegalWordsRaiseIllegal : Prop :=
  (∀ w : Word, (∃ err, decodeWord w = .error err) ↔
    (w.extractLsb' 0 8 = 0x00#8 ∨ 0x0A#8 ≤ w.extractLsb' 0 8 ∨
      (w.extractLsb' 0 8 ∈ [0x05#8, 0x06#8, 0x07#8] ∧ w.extractLsb' 8 24 ≠ 0#24) ∨
      (w.extractLsb' 0 8 = 0x08#8 ∧ w.extractLsb' 16 16 ≠ 0#16) ∨
      (w.extractLsb' 0 8 = 0x09#8 ∧ w.extractLsb' 24 8 ≠ 0#8))) ∧
  (∀ (s : State) (w : Word) (rest : List Move) (err : DecodeError), s.params.admitted = true →
    s.pending = .host w :: rest → decodeWord w = .error err →
    step s = .next { s with pending := rest, responses := s.responses ++ [.fail (.illegal w)] })

/-- When the host's word is next and decodes to a command, the step is that command's meaning, in the state
whose schedule has moved on (20_memory.md R41, R44). -/
def Obligations.StepRunsTheDecodedCommand : Prop :=
  ∀ (s : State) (w : Word) (rest : List Move) (i : Instr), s.params.admitted = true →
    s.pending = .host w :: rest → decodeWord w = .ok i → step s = exec i { s with pending := rest }

/-- When it is the sequencer's turn and the phase's command is not yet issued, the step is that command's
meaning (45_transmission_driver.md R106). That an empty schedule is the sequencer's turn is the model's
choice (log entry 3). -/
def Obligations.StepRunsThePhaseCommand : Prop :=
  ∀ (s : State) (i : Instr), s.params.admitted = true → s.await = false → s.phase.command = some i →
    (s.pending = [] → step s = exec i s) ∧
    (∀ rest, s.pending = .sequencer :: rest → step s = exec i { s with pending := rest })

/-- A command placed by `withFetchWord` is the very next one run (log entry 4): an inbound one in the state
as it was, an outbound one, read from its tag (log entry 14), in its phase, not yet issued. -/
def Obligations.PlacedCommandRunsNext : Prop :=
  ∀ (s : State) (i : Instr) (nbits w : Nat), s.params.admitted = true → decodeTableWord nbits w = some i →
    (i.inbound = true → step (s.withFetchWord nbits w) = exec i s) ∧
    (i.inbound = false → ∃ ph, commandPhase i = some ph ∧
      step (s.withFetchWord nbits w) = exec i { s with phase := ph, await := false })

/-- Every inbound command completes and returns exactly one response, of its own kind
(30_encoding.md R57). -/
def Obligations.EveryInboundCommandAnswersOnce : Prop :=
  ∀ (i : Instr) (s : State), s.params.admitted = true → i.inbound = true →
    ∃ s' r, exec i s = .next s' ∧ s'.responses = s.responses ++ [r] ∧ MayAnswer i s r

/-- In each of the three setter lines a name of NAMES assembles to its index, and any other to nid 0xFFFFFF,
which no setter knows (30_encoding.md R58). -/
def Obligations.UnknownNamesAssembleToNoName : Prop :=
  ∀ (p : Params) (name : String), p.admitted = true →
    (∀ k, p.names[k]? = some name →
      assembleLine p.names (.setFan name) = some (encode (.setFan k)) ∧
      assembleLine p.names (.setMode name) = some (encode (.setMode k)) ∧
      assembleLine p.names (.setSwing name) = some (encode (.setSwing k))) ∧
    (name ∉ p.names →
      assembleLine p.names (.setFan name) = some (.cmd32 0xFFFFFF02#32) ∧
      assembleLine p.names (.setMode name) = some (.cmd32 0xFFFFFF03#32) ∧
      assembleLine p.names (.setSwing name) = some (.cmd32 0xFFFFFF04#32) ∧
      lookupCode p.vt.fanMap 0xFFFFFF = none ∧ lookupCode p.vt.modeMap 0xFFFFFF = none ∧
      lookupCode p.vt.swingMap 0xFFFFFF = none)

/-- A line with numbers puts each operand into its field of the command word, WRITE_BYTE's value written
before its index, and a line without operands is its opcode alone (30_encoding.md R51, R58). That a number
which does not fit its field assembles to no code is the model's choice (log entry 16). -/
def Obligations.NumericLinesAssembleTheirOperands : Prop :=
  ∀ names : List String,
    (∀ t : Int, -8388608 ≤ t → t ≤ 8388607 → ∃ w, assembleLine names (.setTemp t) = some (.cmd32 w) ∧
      w.extractLsb' 0 8 = 0x01#8 ∧ (w.extractLsb' 8 24).toInt = t) ∧
    (∀ n, n < 256 → ∃ w, assembleLine names (.readByte n) = some (.cmd32 w) ∧
      w.extractLsb' 0 8 = 0x08#8 ∧ (w.extractLsb' 8 8).toNat = n ∧ w.extractLsb' 16 16 = 0#16) ∧
    (∀ value n, value < 256 → n < 256 → ∃ w, assembleLine names (.writeByte value n) = some (.cmd32 w) ∧
      w.extractLsb' 0 8 = 0x09#8 ∧ (w.extractLsb' 8 8).toNat = n ∧ (w.extractLsb' 16 8).toNat = value ∧
      w.extractLsb' 24 8 = 0#8) ∧
    (∀ value n, (AsmLine.writeByte value n).text = "WRITE_BYTE " ++ toString value ++ ", " ++ toString n) ∧
    assembleLine names .turnOn = some (.cmd32 0x00000005#32) ∧
    assembleLine names .turnOff = some (.cmd32 0x00000006#32) ∧
    assembleLine names .sendWave = some (.cmd32 0x00000007#32) ∧
    (∀ t : Int, t < -8388608 ∨ 8388607 < t → assembleLine names (.setTemp t) = none) ∧
    (∀ n, 256 ≤ n → assembleLine names (.readByte n) = none) ∧
    (∀ value n, 256 ≤ value ∨ 256 ≤ n → assembleLine names (.writeByte value n) = none)

-- ### State, frames and fields (10_state.md, 20_memory.md)

/-- A field read takes the bits of the mask, shifted down; a field write replaces exactly those bits, by the
value's shifted bits, and leaves every other byte alone (10_state.md R19). -/
def Obligations.FieldWriteChangesOnlyItsBits : Prop :=
  ∀ (s s' : State) (S : FrameSpace) (f : Field) (v : Nat), s.fieldWrite S f v = some s' →
    s.SameBytesBut s' S f.pos ∧
    ∃ b b', s.memRead S f.pos = some b ∧ s'.memRead S f.pos = some b' ∧
      s.fieldRead S f = some ((b &&& f.mask).toNat / 2 ^ f.shift) ∧
      ∀ j, j < 8 → b'.getLsbD j = if f.mask.getLsbD j then (v * 2 ^ f.shift).testBit j else b.getLsbD j

/-- A frame write is idempotent, as a state (20_memory.md R40, the spec's own inference). -/
def Obligations.FrameWritesAreIdempotent : Prop :=
  ∀ (s s' : State) (S : FrameSpace) (n : Nat) (v : Byte), s.memWrite S n v = some s' →
    s'.memWrite S n v = some s' ∧ s'.memRead S n = some v

/-- No step changes what the block was built with, takes an event or a response back, or clears READY
(10_state.md R18, R31; 45_transmission_driver.md R105). -/
def Obligations.StepsKeepConstantsAndHistory : Prop :=
  ∀ s s' : State, step s = .next s' →
    s'.params = s.params ∧ s'.hwHandle = s.hwHandle ∧ s.trace <+: s'.trace ∧
      s.responses <+: s'.responses ∧ (s.ready = true → s'.ready = true)

/-- Reset sets every register to the value 70_reset_and_hazards.md R141 gives, and takes only a table that
passes 10_state.md R20. The fields responses and pending are the model's own (log entries 3 and 11). -/
def Obligations.ResetSetsEveryRegister : Prop :=
  ∀ (p : Params) (h : HwHandle),
    (p.admitted = false → buildBlock p h = none) ∧
    (p.admitted = true → ∃ s, buildBlock p h = some s ∧
      s.params = p ∧ s.hwHandle = h ∧ s.temp = p.vt.defaultTemp ∧
      lookupCode p.vt.fanMap p.vt.defaultFan = some s.fan ∧
      lookupCode p.vt.modeMap p.vt.defaultMode = some s.mode ∧
      lookupCode p.vt.swingMap p.vt.defaultSwing = some s.swing ∧
      s.variant = .normal ∧ s.frame .fn = p.vt.frameOn ∧ s.frame .ff = p.vt.offTemplate ∧
      s.phase = .idle ∧ s.await = false ∧ s.wave = [] ∧ s.nch = 0 ∧ s.ci = 0 ∧ s.handles = [] ∧
      s.ckskip = false ∧ s.result = .none ∧ s.ready = false ∧ s.trace = [])

/-- Parameters that fail 10_state.md R20 build no block: every step refuses them
(93_implementation_defined.md I14; how the model refuses is log entry 13). -/
def Obligations.StepRefusesUnbuiltBlocks : Prop :=
  ∀ s : State, s.params.admitted = false → step s = .refused .noBlock

/-- The invariant holds after reset, for every block and for State.reset, whose parameters are the model's
choice (log entry 2). -/
def Obligations.ResetMeetsTheInvariant : Prop :=
  (∀ (p : Params) (h : HwHandle), p.admitted = true → (State.resetOf p h).Inv) ∧ State.reset.Inv

/-- Every step keeps the invariant: admitted parameters, canonical buffers, settings within the vendor's
bounds and maps (10_state.md R22, R23, R24), run registers that fit the phase. -/
def Obligations.StepKeepsTheInvariant : Prop :=
  ∀ s s' : State, s.Inv → step s = .next s' → s'.Inv

/-- The frame's fields hold the registers after reset, and every step keeps that but a WRITE_BYTE that changes
a bit of one of the four setting fields of the normal frame (10_state.md R26, the spec's own inference). -/
def Obligations.FrameFieldsHoldTheRegisters : Prop :=
  (∀ (p : Params) (h : HwHandle), p.admitted = true → (State.resetOf p h).FieldsAgree) ∧
  (∀ s s' : State, s.Inv → s.FieldsAgree → step s = .next s' →
    (∀ w rest v n, s.pending = .host w :: rest → decodeWord w = .ok (.writeByte v n) →
      s.variant = .off ∨ s.KeepsSettingBits v n) →
    s'.FieldsAgree)

-- ### The AC Protocol State commands (40_protocol_state.md)

/-- SET_TEMP (40_protocol_state.md R66): its encoding, its result for every temperature, and its frame. -/
def Obligations.SetTempClampsAndEncodes : Prop :=
  (∀ w : Word, w.extractLsb' 0 8 = 0x01#8 → decodeWord w = .ok (.setTemp (w.extractLsb' 8 24).toInt)) ∧
  (∀ (s : State) (t : Int), s.params.admitted = true →
    ∃ s' e, exec (.setTemp t) s = .next s' ∧
      s'.temp = max s.params.vt.tempMin (min s.params.vt.tempMax t) ∧
      encodeTemp s.params.vt.encTemp s'.temp = some e ∧ s.FieldWritten s' s.params.vt.fldTemp e ∧
      s'.responses = s.responses ++ [.ok (.temp s'.temp)] ∧
      s'.fan = s.fan ∧ s'.mode = s.mode ∧ s'.swing = s.swing ∧ s'.variant = s.variant ∧
      s.SameRun s' ∧ s.SameWorld s')

/-- SET_FAN, SET_MODE and SET_SWING (40_protocol_state.md R67, R68, R69): their encodings, their results
for a known name with the frame, and the failure of an unknown name. -/
def Obligations.OptionSettersEncodeKnownNames : Prop :=
  (∀ w : Word,
    (w.extractLsb' 0 8 = 0x02#8 → decodeWord w = .ok (.setFan (w.extractLsb' 8 24).toNat)) ∧
    (w.extractLsb' 0 8 = 0x03#8 → decodeWord w = .ok (.setMode (w.extractLsb' 8 24).toNat)) ∧
    (w.extractLsb' 0 8 = 0x04#8 → decodeWord w = .ok (.setSwing (w.extractLsb' 8 24).toNat))) ∧
  (∀ (s : State) (nid : Nat), s.params.admitted = true →
    (∀ c, lookupCode s.params.vt.fanMap nid = some c → ∃ s', exec (.setFan nid) s = .next s' ∧
      s'.fan = c ∧ s'.mode = s.mode ∧ s'.swing = s.swing ∧ s.OptionSet s' s.params.vt.fldFan nid c) ∧
    (∀ c, lookupCode s.params.vt.modeMap nid = some c → ∃ s', exec (.setMode nid) s = .next s' ∧
      s'.mode = c ∧ s'.fan = s.fan ∧ s'.swing = s.swing ∧ s.OptionSet s' s.params.vt.fldMode nid c) ∧
    (∀ c, lookupCode s.params.vt.swingMap nid = some c → ∃ s', exec (.setSwing nid) s = .next s' ∧
      s'.swing = c ∧ s'.fan = s.fan ∧ s'.mode = s.mode ∧ s.OptionSet s' s.params.vt.fldSwing nid c) ∧
    (lookupCode s.params.vt.fanMap nid = none →
      exec (.setFan nid) s = .next (s.answered (.fail (.validation nid)))) ∧
    (lookupCode s.params.vt.modeMap nid = none →
      exec (.setMode nid) s = .next (s.answered (.fail (.validation nid)))) ∧
    (lookupCode s.params.vt.swingMap nid = none →
      exec (.setSwing nid) s = .next (s.answered (.fail (.validation nid)))))

/-- "ULTRA" is a known string and never a valid option: each setter fails on it and changes nothing
(10_state.md R20 check 11, 40_protocol_state.md R67). -/
def Obligations.UltraIsNeverAnOption : Prop :=
  ∀ s : State, s.params.admitted = true →
    ∃ nid, s.params.nameOf nid = some "ULTRA" ∧
      exec (.setFan nid) s = .next (s.answered (.fail (.validation nid))) ∧
      exec (.setMode nid) s = .next (s.answered (.fail (.validation nid))) ∧
      exec (.setSwing nid) s = .next (s.answered (.fail (.validation nid)))

/-- TURN_ON (40_protocol_state.md R70): the normal frame is selected, the power field set where there is
one, nothing else changes, and a second TURN_ON changes nothing but the responses. -/
def Obligations.TurnOnSelectsTheNormalFrame : Prop :=
  (∀ w : Word, w.extractLsb' 0 8 = 0x05#8 → w.extractLsb' 8 24 = 0#24 → decodeWord w = .ok .turnOn) ∧
  (∀ s : State, s.params.admitted = true →
    ∃ s', exec .turnOn s = .next s' ∧ s'.variant = .normal ∧ s.PowerSet s' (·.pwrOn) ∧
      exec .turnOn s' = .next (s'.answered (.ok .unit)))

/-- TURN_OFF (40_protocol_state.md R71): the power-off frame is selected where the vendor has one, the power
field cleared where there is one, nothing else changes, and a second TURN_OFF changes nothing but the
responses. -/
def Obligations.TurnOffSelectsTheOffFrame : Prop :=
  (∀ w : Word, w.extractLsb' 0 8 = 0x06#8 → w.extractLsb' 8 24 = 0#24 → decodeWord w = .ok .turnOff) ∧
  (∀ s : State, s.params.admitted = true →
    ∃ s', exec .turnOff s = .next s' ∧
      (s.params.vt.frameOff.isSome = true → s'.variant = .off) ∧
      (s.params.vt.frameOff = none → s'.variant = s.variant) ∧ s.PowerSet s' (·.pwrOff) ∧
      exec .turnOff s' = .next (s'.answered (.ok .unit)))

/-- READ_BYTE (40_protocol_state.md R72): the byte of the active frame (20_memory.md R36) or E_INDEX, and no
other state. -/
def Obligations.ReadByteReadsTheActiveFrame : Prop :=
  (∀ w : Word, w.extractLsb' 0 8 = 0x08#8 → w.extractLsb' 16 16 = 0#16 →
    decodeWord w = .ok (.readByte (w.extractLsb' 8 8).toNat)) ∧
  (∀ s : State, s.activeSpace = if s.variant = .normal then .fn else .ff) ∧
  (∀ (s : State) (n : Nat),
    (1 ≤ n ∧ n ≤ (s.frame s.activeSpace).length →
      ∃ b, (s.frame s.activeSpace)[n - 1]? = some b ∧
        exec (.readByte n) s = .next (s.answered (.ok (.byte b)))) ∧
    (¬ (1 ≤ n ∧ n ≤ (s.frame s.activeSpace).length) →
      exec (.readByte n) s = .next (s.answered (.fail (.index n)))))

/-- WRITE_BYTE (40_protocol_state.md R73): byte n of the active frame and nothing else, or E_INDEX. -/
def Obligations.WriteByteWritesTheActiveFrame : Prop :=
  (∀ w : Word, w.extractLsb' 0 8 = 0x09#8 → w.extractLsb' 24 8 = 0#8 →
    decodeWord w = .ok (.writeByte (w.extractLsb' 16 8) (w.extractLsb' 8 8).toNat)) ∧
  (∀ (s : State) (v : Byte) (n : Nat),
    (1 ≤ n ∧ n ≤ (s.frame s.activeSpace).length →
      ∃ s', exec (.writeByte v n) s = .next s' ∧ s'.memRead s.activeSpace n = some v ∧
        s.SameBytesBut s' s.activeSpace n ∧ s.SameSettings s' ∧ s'.variant = s.variant ∧
        s.SameRun s' ∧ s.SameWorld s' ∧ s'.responses = s.responses ++ [.ok .unit]) ∧
    (¬ (1 ≤ n ∧ n ≤ (s.frame s.activeSpace).length) →
      exec (.writeByte v n) s = .next (s.answered (.fail (.index n)))))

/-- The commands of the family change the settings, VARIANT, the frames and the responses alone: no run
register, no event, no outbound command (40_protocol_state.md R74). -/
def Obligations.FrameCommandsNeverTransmit : Prop :=
  ∀ (i : Instr) (s s' : State), i.inbound = true → i ≠ .sendWave → exec i s = .next s' →
    s.SameRun s' ∧ s.SameWorld s'

/-- What a setter wrote decodes back from the frame (40_protocol_state.md R75, the spec's own inference). -/
def Obligations.SettingsDecodeBackFromTheFrame : Prop :=
  ∀ s : State, s.params.admitted = true →
    (∀ t : Int, ∃ s' f, exec (.setTemp t) s = .next s' ∧
      s'.responses = s.responses ++ [.ok (.temp (max s.params.vt.tempMin (min s.params.vt.tempMax t)))] ∧
      s'.fieldRead .fn s.params.vt.fldTemp = some f ∧
      decodeTemp s.params.vt.decTemp f = some (max s.params.vt.tempMin (min s.params.vt.tempMax t))) ∧
    (∀ nid, lookupCode s.params.vt.fanMap nid ≠ none → ∃ s' c, exec (.setFan nid) s = .next s' ∧
      s'.responses = s.responses ++ [.ok (.name nid)] ∧
      s'.fieldRead .fn s.params.vt.fldFan = some c ∧ inverseCode s.params.vt.fanMap c = some nid) ∧
    (∀ nid, lookupCode s.params.vt.modeMap nid ≠ none → ∃ s' c, exec (.setMode nid) s = .next s' ∧
      s'.responses = s.responses ++ [.ok (.name nid)] ∧
      s'.fieldRead .fn s.params.vt.fldMode = some c ∧ inverseCode s.params.vt.modeMap c = some nid) ∧
    (∀ nid, lookupCode s.params.vt.swingMap nid ≠ none → ∃ s' c, exec (.setSwing nid) s = .next s' ∧
      s'.responses = s.responses ++ [.ok (.name nid)] ∧
      s'.fieldRead .fn s.params.vt.fldSwing = some c ∧ inverseCode s.params.vt.swingMap c = some nid)

-- ### The checksum (41_checksum.md)

/-- The checksum is the wrapped difference or sum over the indices CK_LO..CK_HI, or the sentinel on a length
that is not CK_LEN (41_checksum.md R76, R78). -/
def Obligations.ChecksumSumsTheRange : Prop :=
  ∀ (vt : VendorTable) (F : List Byte), 1 ≤ vt.ckLo → vt.ckLo ≤ vt.ckHi → vt.ckHi ≤ vt.ckLen →
    (F.length ≠ vt.ckLen → checksum vt F = none) ∧
    (F.length = vt.ckLen → vt.ckKind = .negsum →
      checksum vt F = some (BitVec.ofInt 8
        ((vt.ckConst : Int) - ((∑ k ∈ Finset.Icc vt.ckLo vt.ckHi, (F.getD (k - 1) 0#8).toNat : Nat) : Int)))) ∧
    (F.length = vt.ckLen → vt.ckKind = .sum →
      checksum vt F = some (BitVec.ofNat 8
        (∑ k ∈ Finset.Icc vt.ckLo vt.ckHi, (F.getD (k - 1) 0#8).toNat)))

/-- The checksum does not depend on the byte it is stored in (41_checksum.md R76, corner cases). -/
def Obligations.ChecksumIgnoresItsOwnByte : Prop :=
  ∀ (p : Params) (F : List Byte) (b : Byte), p.admitted = true →
    checksum p.vt (F.set (p.vt.ckPos - 1) b) = checksum p.vt F

/-- The truncating reading of the remainder puts the same eight bits on the wire: the model needs no parameter
CK_REMAINDER (log entry 21; 93_implementation_defined.md I5). -/
def Obligations.RemainderReadingsGiveTheSameByte : Prop :=
  ∀ x : Int, truncByte x = euclidByte x

-- ### From frame to wave (42_pulse_train.md, 43_carrier_modulator.md, 44_wave_assembler.md)

/-- A frame of L bytes gives exactly 3 + 16·L durations (42_pulse_train.md R84). -/
def Obligations.PulseTrainLength : Prop :=
  ∀ (vt : VendorTable) (F : List Byte), (encodeFrame vt F).length = 3 + 16 * F.length

/-- The position of each duration (42_pulse_train.md R85, the spec's own inference), with n counted from 0. -/
def Obligations.PulseTrainPositions : Prop :=
  ∀ (vt : VendorTable) (F : List Byte),
    (encodeFrame vt F)[0]? = some vt.tHdrMark ∧ (encodeFrame vt F)[1]? = some vt.tHdrSpace ∧
    (encodeFrame vt F)[2]? = some vt.tGap ∧
    ∀ n b j, F[n]? = some b → j < 8 →
      (encodeFrame vt F)[3 + 16 * n + 2 * j]? = some (if b.getLsbD j then vt.tOne else vt.tZero) ∧
      (encodeFrame vt F)[4 + 16 * n + 2 * j]? = some vt.tGap

/-- The nominal signal time of a pulse train (42_pulse_train.md R88, the spec's own inference). -/
def Obligations.PulseTrainNominalTime : Prop :=
  ∀ (vt : VendorTable) (F : List Byte) (ones : Nat),
    ones = ((F.flatMap fun b => (List.range 8).map b.getLsbD).count true) →
    (encodeFrame vt F).sum = vt.tHdrMark + vt.tHdrSpace + (8 * F.length + 1) * vt.tGap + ones * vt.tOne +
      (8 * F.length - ones) * vt.tZero

/-- The half-cycle count under the spec's reading (43_carrier_modulator.md R92), and under the others
(93_implementation_defined.md I3, I4; that they are parameters of the block is log entry 12). A count that lies
half way, which the exact period gives for d ≡ 125 (mod 250) and for no other d (R92, the spec's own inference),
goes up, down or to the even neighbour; with a period of 26 µs the count is d/13 rounded, and none lies half
way. -/
def Obligations.CarrierCountFormula : Prop :=
  ∀ (p : Params) (d : Nat),
    (p.SpecCarrier → carrierCount p d = (19 * d + 125) / 250) ∧
    (19 * d % 250 = 125 ↔ d % 250 = 125) ∧
    (p.carrierPeriod = .exactPeriod → d % 250 ≠ 125 → carrierCount p d = (19 * d + 125) / 250) ∧
    (p.carrierPeriod = .exactPeriod → d % 250 = 125 →
      (p.carrierTie = .up → carrierCount p d = 19 * d / 250 + 1) ∧
      (p.carrierTie = .down → carrierCount p d = 19 * d / 250) ∧
      (p.carrierTie = .even →
        carrierCount p d % 2 = 0 ∧
        (carrierCount p d = 19 * d / 250 ∨ carrierCount p d = 19 * d / 250 + 1))) ∧
    (p.carrierPeriod = .rounded26 → carrierCount p d = (d + 6) / 13)

/-- A burst has that many half-cycles, alternating from ON, each 13 µs, so it lasts 13 times the count and
ends on ON exactly when the count is odd (43_carrier_modulator.md R93; the time and the end are the spec's
own inferences R94 and R95). ON asserts the emitter's line and no other, OFF deasserts it and no other, each
for its duration (30_encoding.md R59). -/
def Obligations.BurstAlternatesFromOn : Prop :=
  ∀ (p : Params) (d : Nat),
    pulseOn p d = ⟨1#32 <<< p.emitPin, 0#32, BitVec.ofNat 32 d⟩ ∧
    pulseOff p d = ⟨0#32, 1#32 <<< p.emitPin, BitVec.ofNat 32 d⟩ ∧
    (p.admitted = true → ∀ k, k < 32 →
      ((pulseOn p d).onMask.getLsbD k = true ↔ k = p.emitPin) ∧
      ((pulseOff p d).offMask.getLsbD k = true ↔ k = p.emitPin)) ∧
    (modulate p d).length = carrierCount p d ∧
    (∀ k, k < carrierCount p d →
      (modulate p d)[k]? = some (if k % 2 = 0 then pulseOn p 13 else pulseOff p 13)) ∧
    ((modulate p d).map (·.delay.toNat)).sum = 13 * carrierCount p d ∧
    (carrierCount p d % 2 = 1 → (modulate p d).getLast? = some (pulseOn p 13)) ∧
    (carrierCount p d ≠ 0 → carrierCount p d % 2 = 0 → (modulate p d).getLast? = some (pulseOff p 13))

/-- The wave of a non-empty pulse train ends in the two terminal instructions, which deassert the emitter pin
(44_wave_assembler.md R99, 30_encoding.md R59). -/
def Obligations.WaveEndsDeasserted : Prop :=
  ∀ (p : Params) (train : List Nat), train ≠ [] →
    (assemble p train)[(assemble p train).length - 2]? =
      some ⟨0#32, 1#32 <<< p.emitPin, BitVec.ofNat 32 p.tTail1⟩ ∧
    (assemble p train)[(assemble p train).length - 1]? =
      some ⟨0#32, 1#32 <<< p.emitPin, BitVec.ofNat 32 p.tTail2⟩

/-- No instruction of a wave asserts the emitter without the next one deasserting it
(43_carrier_modulator.md R95, the spec's own inference; 44_wave_assembler.md R98). -/
def Obligations.EveryAssertIsFollowedByADeassert : Prop :=
  ∀ (p : Params) (train : List Nat) (k : Nat) (x : Pulse), (assemble p train)[k]? = some x →
    x.onMask ≠ 0#32 →
    ∃ y, (assemble p train)[k + 1]? = some y ∧ y.onMask = 0#32 ∧ y.offMask = 1#32 <<< p.emitPin

/-- The length of a frame's wave does not depend on its byte values (44_wave_assembler.md R100, the spec's own
inference). -/
def Obligations.WaveLengthOfAFrame : Prop :=
  ∀ (p : Params) (F : List Byte),
    (waveOf p F).length = carrierCount p p.vt.tHdrMark + (8 * F.length + 1) * carrierCount p p.vt.tGap +
      (8 * F.length + 1) + 2

/-- The layout of a frame's wave (44_wave_assembler.md R101, the spec's own inference), with n counted
from 0. -/
def Obligations.WaveLayoutOfAFrame : Prop :=
  ∀ (p : Params) (F : List Byte) (h g : Nat), h = carrierCount p p.vt.tHdrMark → g = carrierCount p p.vt.tGap →
    (∀ k, k < h → (waveOf p F)[k]? = some (if k % 2 = 0 then pulseOn p 13 else pulseOff p 13)) ∧
    (waveOf p F)[h]? = some (pulseOff p p.vt.tHdrSpace) ∧
    (∀ k, k < g → (waveOf p F)[h + 1 + k]? = some (if k % 2 = 0 then pulseOn p 13 else pulseOff p 13)) ∧
    (∀ n b j, F[n]? = some b → j < 8 →
      (waveOf p F)[h + 1 + g + (8 * n + j) * (g + 1)]? =
        some (pulseOff p (if b.getLsbD j then p.vt.tOne else p.vt.tZero)) ∧
      ∀ k, k < g → (waveOf p F)[h + 1 + g + (8 * n + j) * (g + 1) + 1 + k]? =
        some (if k % 2 = 0 then pulseOn p 13 else pulseOff p 13)) ∧
    (waveOf p F)[h + 1 + g + 8 * F.length * (g + 1)]? = some (pulseOff p p.tTail1) ∧
    (waveOf p F)[h + 1 + g + 8 * F.length * (g + 1) + 1]? = some (pulseOff p p.tTail2)

-- ### The Transmission Driver (45_transmission_driver.md)

/-- SEND_WAVE (45_transmission_driver.md R104): E_BUSY in a run; else the checksum, the snapshot's wave and
the run registers are written in one step, and the run starts or ends for want of a handle. -/
def Obligations.SendWaveAcceptsOneRun : Prop :=
  (∀ w : Word, w.extractLsb' 0 8 = 0x07#8 → w.extractLsb' 8 24 = 0#24 → decodeWord w = .ok .sendWave) ∧
  (∀ s : State, s.params.admitted = true →
    (s.phase ∉ [.idle, .doneOk, .doneFail] →
      exec .sendWave s = .next (s.answered (.fail .busy))) ∧
    (s.phase ∈ [.idle, .doneOk, .doneFail] →
      ∃ s', exec .sendWave s = .next s' ∧
        (∀ c, checksum s.params.vt (s.frame s.activeSpace) = some c →
          s'.ckskip = false ∧ s'.memRead s.activeSpace s.params.vt.ckPos = some c ∧
          s.SameBytesBut s' s.activeSpace s.params.vt.ckPos) ∧
        (checksum s.params.vt (s.frame s.activeSpace) = none → s'.ckskip = true ∧ s.SameBytes s') ∧
        s'.wave = assemble s.params (encodeFrame s.params.vt (s'.frame s.activeSpace)) ∧
        s'.nch = s'.wave.length / s.params.chunkSize + 1 ∧ s'.ci = 0 ∧ s'.handles = [] ∧
        s'.await = false ∧ s.SameSettings s' ∧ s'.variant = s.variant ∧ s'.params = s.params ∧
        s'.hwHandle = s.hwHandle ∧ s'.ready = s.ready ∧ s'.pending = s.pending ∧
        s'.responses = s.responses ++ [.ok .accepted] ∧
        (s.hwHandle = .absent → s'.result = .fail .noHandle ∧ s'.phase = .doneFail ∧
          s'.trace = s.trace ++ [.done (.fail .noHandle) s'.ckskip]) ∧
        (s.hwHandle = .present → s'.result = .pending ∧ s'.phase = .waitReady ∧ s'.trace = s.trace)))

/-- The WAIT_READY step (45_transmission_driver.md R109): to MODESET once READY = 1, and no step while
READY = 0, a turn that leaves the state as it is (log entry 10). That an empty schedule is the sequencer's turn
is the model's choice (log entry 3). -/
def Obligations.WaitReadyLeavesOnceReady : Prop :=
  ∀ s : State, s.params.admitted = true → s.phase = .waitReady →
    (∀ rest, s.pending = .sequencer :: rest →
      (s.ready = true → step s = .next { s with pending := rest, phase := .modeset, await := false }) ∧
      (s.ready = false → step s = .next { s with pending := rest })) ∧
    (s.pending = [] →
      (s.ready = true → step s = .next { s with phase := .modeset, await := false }) ∧
      (s.ready = false → step s = .next s))

/-- MODE_SET and WAVE_CLEAR are issued in their phases and lead on when they complete
(45_transmission_driver.md R110, R111). -/
def Obligations.ModeSetAndClearIssueAndAdvance : Prop :=
  ∀ s : State,
    (s.phase = .modeset → s.await = false →
      exec .modeSet s = .next { s with
        await := true,
        trace := s.trace ++ [.issue (.modeSet s.params.emitPin .output)] }) ∧
    (s.phase = .clear → s.await = false →
      exec .waveClear s = .next { s with await := true, trace := s.trace ++ [.issue .waveClear] }) ∧
    (∀ rest, s.params.admitted = true → s.await = true → s.pending = .complete (.ok .unit) :: rest →
      (s.phase = .modeset → step s = .next { s with
        pending := rest, await := false, phase := .clear,
        trace := s.trace ++ [.cmplOk .unit] }) ∧
      (s.phase = .clear → step s = .next { s with
        pending := rest, await := false, phase := .add, ci := 0,
        trace := s.trace ++ [.cmplOk .unit] }))

/-- WAVE_ADD_PULSE of the current chunk, the last of which holds the rest of the wave, and WAVE_CREATE, with
the handle recorded and the next chunk or the chain after it (45_transmission_driver.md R112, R113). -/
def Obligations.AddAndCreateIssueAndAdvance : Prop :=
  ∀ s : State,
    (s.phase = .add → s.await = false →
      exec .waveAddPulse s = .next { s with
        await := true, trace := s.trace ++
        [.issue (.waveAddPulse (slice s.wave (s.ci * s.params.chunkSize)
        (s.ci * s.params.chunkSize + s.params.chunkSize)))] }) ∧
    (s.params.admitted = true → s.ci = s.wave.length / s.params.chunkSize →
      (slice s.wave (s.ci * s.params.chunkSize) (s.ci * s.params.chunkSize + s.params.chunkSize)).length =
        s.wave.length % s.params.chunkSize) ∧
    (s.phase = .create → s.await = false →
      exec .waveCreate s = .next { s with await := true, trace := s.trace ++ [.issue .waveCreate] }) ∧
    (∀ rest, s.params.admitted = true → s.await = true → s.phase = .add →
      s.pending = .complete (.ok .unit) :: rest →
      step s = .next { s with
        pending := rest, await := false, phase := .create,
        trace := s.trace ++ [.cmplOk .unit] }) ∧
    (∀ h rest, s.params.admitted = true → s.await = true → s.phase = .create →
      s.pending = .complete (.ok (.handle h)) :: rest →
      (s.ci + 1 < s.nch → step s = .next { s with
        pending := rest, await := false, phase := .add,
        ci := s.ci + 1, handles := s.handles ++ [h], trace := s.trace ++ [.cmplOk (.handle h)] }) ∧
      (¬ s.ci + 1 < s.nch → step s = .next { s with
        pending := rest, await := false, phase := .chain,
        handles := s.handles ++ [h], trace := s.trace ++ [.cmplOk (.handle h)] }))

/-- WAVE_CHAIN_TX of the recorded handles and WRITE(EMIT_PIN, 0), whose completion ends the run in DONE_OK
(45_transmission_driver.md R114, R115). -/
def Obligations.ChainAndWriteIssueAndFinish : Prop :=
  ∀ s : State,
    (s.phase = .chain → s.await = false →
      exec .waveChainTx s = .next { s with
        await := true,
        trace := s.trace ++ [.issue (.waveChainTx s.handles)] }) ∧
    (s.phase = .deact → s.await = false →
      exec .write s = .next { s with
        await := true,
        trace := s.trace ++ [.issue (.write s.params.emitPin 0)] }) ∧
    (∀ rest, s.params.admitted = true → s.await = true → s.pending = .complete (.ok .unit) :: rest →
      (s.phase = .chain → step s = .next { s with
        pending := rest, await := false, phase := .deact,
        trace := s.trace ++ [.cmplOk .unit] }) ∧
      (s.phase = .deact → step s = .next { s with
        pending := rest, await := false, phase := .doneOk,
        result := .ok, trace := s.trace ++ [.cmplOk .unit, .done .ok s.ckskip] }))

/-- An outbound command has no issue step outside its phase or while one is outstanding
(45_transmission_driver.md R106): its meaning stops there by name (log entry 8). -/
def Obligations.OutboundCommandsIssueOnlyInTheirPhase : Prop :=
  ∀ s : State,
    (¬ (s.phase = .modeset ∧ s.await = false) → exec .modeSet s = .fault .notEnabled) ∧
    (¬ (s.phase = .clear ∧ s.await = false) → exec .waveClear s = .fault .notEnabled) ∧
    (¬ (s.phase = .add ∧ s.await = false) → exec .waveAddPulse s = .fault .notEnabled) ∧
    (¬ (s.phase = .create ∧ s.await = false) → exec .waveCreate s = .fault .notEnabled) ∧
    (¬ (s.phase = .chain ∧ s.await = false) → exec .waveChainTx s = .fault .notEnabled) ∧
    (¬ (s.phase = .deact ∧ s.await = false) → exec .write s = .fault .notEnabled)

/-- The failure step (45_transmission_driver.md R108): the run ends at once with E_HW, the tag of the command
that was issued, and the collaborator's error; nothing is rolled back and nothing more is issued. -/
def Obligations.CommandFailureEndsTheRun : Prop :=
  (∀ (s : State) (tag : Byte) (err : Nat) (rest : List Move), s.params.admitted = true → s.await = true →
    s.phase.tag = some tag → s.pending = .complete (.fail err) :: rest →
    step s = .next { s with
        pending := rest, await := false, phase := .doneFail,
        result := .fail (.hw tag err),
        trace := s.trace ++ [.cmplFail err, .done (.fail (.hw tag err)) s.ckskip] }) ∧
  (∀ (i : Instr) (s s' : State) (c : Outbound), exec i s = .next s' → s'.trace = s.trace ++ [.issue c] →
    s'.phase.tag = some c.tag)

/-- The chunks make up the wave: full ones, then the rest, which is empty when the chunk size divides the
length (45_transmission_driver.md R118 and 70_reset_and_hazards.md R147, the spec's own inferences). -/
def Obligations.ChunksMakeUpTheWave : Prop :=
  ∀ (C : Nat) (wave : List Pulse), 1 ≤ C →
    (List.range (chunkCount C wave)).flatMap (chunkOf C wave) = wave ∧
    (∀ i, i < wave.length / C → (chunkOf C wave i).length = C) ∧
    (chunkOf C wave (wave.length / C)).length = wave.length % C

/-- The commands a run has issued are, at every step, the part so far of the sequence of
45_transmission_driver.md R117, the spec's own inference: `before` is what the trace held before the run, and
a step either goes on with that run or accepts a new one, which has issued nothing. -/
def Obligations.RunsFollowTheCommandSequence : Prop :=
  ∀ (s s' : State) (before : List Outbound), s.Inv → issuesOf s.trace = before ++ s.runIssues →
    step s = .next s' →
    issuesOf s'.trace = before ++ s'.runIssues ∨
    (s.phase.inFlight = false ∧ acceptedCount s'.responses = acceptedCount s.responses + 1 ∧
      s'.runIssues = [] ∧ issuesOf s'.trace = issuesOf s.trace)

/-- A run whose commands all complete OK, from WAIT_READY with READY = 1, ends in DONE_OK and has issued
exactly the sequence of 45_transmission_driver.md R117, the spec's own inference, whatever the handles are and
whatever comes between: host words, notifications, and turns in which the sequencer awaits a completion. Each
host word is answered, and none starts a run (45_transmission_driver.md R120). That the moves come from a schedule is
log entry 3, and that an awaiting turn, which has no step, leaves the state as it is log entry 10, both the
model's choice. -/
def Obligations.SuccessfulRunIssuesTheWholeSequence : Prop :=
  ∀ (s : State) (handles : List Nat), s.Inv → s.phase = .waitReady → s.ready = true →
    handles.length = s.nch → Interleaved (successSchedule handles) s.pending →
    ∃ t, Host.Core.run Sys2Proof.core s.pending.length s = .next t ∧
      t.phase = .doneOk ∧ t.result = .ok ∧ t.handles = handles ∧ t.pending = [] ∧
      issuesOf t.trace = issuesOf s.trace ++ runCommands s.params s.wave s.nch handles ∧
      t.trace.getLast? = some (.done .ok s.ckskip) ∧
      t.responses.length = s.responses.length + s.pending.countP Move.fromHost ∧
      acceptedCount t.responses = acceptedCount s.responses

/-- At most one outbound command is outstanding, and it is outstanding exactly while AWAIT = 1
(45_transmission_driver.md R106, 20_memory.md R46). -/
def Obligations.AtMostOneCommandOutstanding : Prop :=
  ∀ s s' : State, s.Inv → step s = .next s' →
    (issuesOf s.trace).length = completionCount s.trace + (if s.await then 1 else 0) →
    (issuesOf s'.trace).length = completionCount s'.trace + (if s'.await then 1 else 0)

/-- Each accepted run signals exactly one DONE, in the step that ends it
(45_transmission_driver.md R116). -/
def Obligations.EachRunSignalsOneDone : Prop :=
  ∀ s s' : State, s.Inv → step s = .next s' →
    doneCount s.trace + (if s.phase.inFlight then 1 else 0) = acceptedCount s.responses →
    doneCount s'.trace + (if s'.phase.inFlight then 1 else 0) = acceptedCount s'.responses

/-- The sequencer and the collaborator read no setting and no frame buffer: with those different, every step
but a host's does the same (20_memory.md R44). -/
def Obligations.SequencerReadsNoFrame : Prop :=
  ∀ s₁ s₂ t₁ : State,
    s₂ = { s₁ with temp := s₂.temp, fan := s₂.fan, mode := s₂.mode, swing := s₂.swing,
                   variant := s₂.variant, fn := s₂.fn, ff := s₂.ff } →
    (∀ w rest, s₁.pending ≠ .host w :: rest) → step s₁ = .next t₁ →
    step s₂ = .next { t₁ with temp := s₂.temp, fan := s₂.fan, mode := s₂.mode, swing := s₂.swing,
                              variant := s₂.variant, fn := s₂.fn, ff := s₂.ff }

-- ### Failures, notifications, reset and hazards (60_exceptions.md, 70_reset_and_hazards.md)

/-- The numeric failure codes (60_exceptions.md R121) and outbound tags (30_encoding.md R63). -/
def Obligations.FailureCodesAndTags : Prop :=
  (∀ w n, SyncFailure.code (.illegal w) = 1 ∧ SyncFailure.code (.validation n) = 2 ∧
    SyncFailure.code (.index n) = 3 ∧ SyncFailure.code .busy = 4) ∧
  (∀ tag err, RunFailure.code .noHandle = 5 ∧ RunFailure.code (.hw tag err) = 6) ∧
  (∀ pin mode pulses handles level, (Outbound.modeSet pin mode).tag = 0x80#8 ∧
    Outbound.waveClear.tag = 0x81#8 ∧ (Outbound.waveAddPulse pulses).tag = 0x82#8 ∧
    Outbound.waveCreate.tag = 0x83#8 ∧ (Outbound.waveChainTx handles).tag = 0x84#8 ∧
    (Outbound.write pin level).tag = 0x85#8)

/-- A synchronous failure changes no state at all but its response (60_exceptions.md R122). -/
def Obligations.SynchronousFailuresChangeNothing : Prop :=
  ∀ (i : Instr) (s s' : State) (f : SyncFailure), exec i s = .next s' →
    s'.responses = s.responses ++ [.fail f] → s' = s.answered (.fail f)

/-- The readiness notification sets READY and nothing else, a second one changes nothing, and a reconnect
changes nothing (60_exceptions.md R129, R130). -/
def Obligations.NotificationsSetOnlyReady : Prop :=
  ∀ (s : State) (rest : List Move), s.params.admitted = true →
    (s.pending = .readiness :: rest → step s = .next { s with pending := rest, ready := true }) ∧
    (s.pending = .readiness :: rest → s.ready = true → step s = .next { s with pending := rest }) ∧
    (s.pending = .reconnect :: rest → step s = .next { s with pending := rest })

/-- From a state that meets the invariant no step faults, and a step refuses exactly a completion that the
collaborator must not give (60_exceptions.md R131, R137; 93_implementation_defined.md I19; which values it
may give is log entry 9). That a turn of the sequencer with no step goes on with the state as it is, and that an
empty schedule is the sequencer's turn, is the model's choice (log entries 10 and 3). -/
def Obligations.StepStopsOnlyOutsideTheModel : Prop :=
  ∀ s : State, s.Inv →
    (∀ f, step s ≠ .fault f) ∧
    (∀ r, step s = .refused r ↔
      (r = .outsideModel ∧ ∃ c rest, s.pending = .complete c :: rest ∧
        ¬ (s.await = true ∧ c.allowedIn s.phase)))

/-- TURN_ON right after reset changes nothing but the responses, and the Fujitsu reset state is the one
70_reset_and_hazards.md R143 gives. -/
def Obligations.FujitsuResetState : Prop :=
  (∀ (p : Params) (h : HwHandle), p.admitted = true →
    exec .turnOn (State.resetOf p h) = .next ((State.resetOf p h).answered (.ok .unit))) ∧
  (∀ (p : Params) (h : HwHandle), IsFujitsu p →
    (State.resetOf p h).temp = 22 ∧ (State.resetOf p h).variant = .normal ∧
    (State.resetOf p h).frame .fn = p.vt.frameOn ∧
    (State.resetOf p h).memRead .fn p.vt.ckPos = some 0x2E#8 ∧
    (∃ nid, p.nameOf nid = some "AUTO" ∧
      lookupCode p.vt.modeMap nid = some (State.resetOf p h).mode) ∧
    (∃ nid, p.nameOf nid = some "AUTO" ∧
      lookupCode p.vt.fanMap nid = some (State.resetOf p h).fan) ∧
    (∃ nid, p.nameOf nid = some "OFF" ∧
      lookupCode p.vt.swingMap nid = some (State.resetOf p h).swing))

/-- The source's end-to-end property (95_test_vectors.md S1): the first SEND_WAVE of a Fujitsu block after
reset leaves the checksum byte 0x2E (41_checksum.md R82), its train begins 3320, 1580, 420
(42_pulse_train.md R89), and its wave has 287 + 264·L instructions (44_wave_assembler.md R102, the spec's own
inference) of which the last two deassert the emitter. -/
def Obligations.FujitsuFirstTransmission : Prop :=
  ∀ (p : Params) (h : HwHandle), IsFujitsu p → p.SpecCarrier →
    ∃ s', exec .sendWave (State.resetOf p h) = .next s' ∧
      s'.ckskip = false ∧ s'.memRead .fn p.vt.ckPos = some 0x2E#8 ∧
      s'.wave = assemble p (encodeFrame p.vt (s'.frame .fn)) ∧
      (∀ F, (encodeFrame p.vt F).take 3 = [3320, 1580, 420]) ∧
      (∀ F, (waveOf p F).length = 287 + 264 * F.length) ∧
      waveTail p <:+ s'.wave

/-- A hung command stalls its run (70_reset_and_hazards.md R148): while AWAIT = 1, no step but a completion
changes the phase, AWAIT or the result or signals DONE, and a SEND_WAVE answers E_BUSY. A turn with no step
leaves the state as it is (log entry 10). -/
def Obligations.HungCommandStallsTheRun : Prop :=
  ∀ s : State, s.params.admitted = true → s.await = true → s.phase.tag ≠ none →
    (∀ c rest, s.pending ≠ .complete c :: rest) →
    ∃ s', step s = .next s' ∧ s'.phase = s.phase ∧ s'.await = true ∧ s'.result = s.result ∧
      s'.trace = s.trace ∧ exec .sendWave s' = .next (s'.answered (.fail .busy))

/-- A run accepted before readiness waits (70_reset_and_hazards.md R149): with READY = 0 no step but the
readiness notification moves it on, it issues nothing and signals nothing, and a SEND_WAVE answers
E_BUSY. A turn with no step leaves the state as it is (log entry 10). -/
def Obligations.RunWaitsUntilReady : Prop :=
  ∀ s : State, s.Inv → s.phase = .waitReady → s.ready = false →
    (∀ rest, s.pending ≠ .readiness :: rest) → (∀ c rest, s.pending ≠ .complete c :: rest) →
    ∃ s', step s = .next s' ∧ s'.phase = .waitReady ∧ s'.ready = false ∧ s'.result = .pending ∧
      s'.trace = s.trace ∧ exec .sendWave s' = .next (s'.answered (.fail .busy))
end

