-- ==== Sys2Proof/Laws/State.lean ====
section
/-! SUPPORT. One lemma per field per named update of the state, true by rfl. -/

namespace Sys2Proof.Machine.State

variable (s : State)

@[simp] theorem answer_params (r : Response) : (s.answer r).params = s.params := rfl
@[simp] theorem answer_hwHandle (r : Response) : (s.answer r).hwHandle = s.hwHandle := rfl
@[simp] theorem answer_temp (r : Response) : (s.answer r).temp = s.temp := rfl
@[simp] theorem answer_fan (r : Response) : (s.answer r).fan = s.fan := rfl
@[simp] theorem answer_mode (r : Response) : (s.answer r).mode = s.mode := rfl
@[simp] theorem answer_swing (r : Response) : (s.answer r).swing = s.swing := rfl
@[simp] theorem answer_variant (r : Response) : (s.answer r).variant = s.variant := rfl
@[simp] theorem answer_fn (r : Response) : (s.answer r).fn = s.fn := rfl
@[simp] theorem answer_ff (r : Response) : (s.answer r).ff = s.ff := rfl
@[simp] theorem answer_phase (r : Response) : (s.answer r).phase = s.phase := rfl
@[simp] theorem answer_await (r : Response) : (s.answer r).await = s.await := rfl
@[simp] theorem answer_wave (r : Response) : (s.answer r).wave = s.wave := rfl
@[simp] theorem answer_nch (r : Response) : (s.answer r).nch = s.nch := rfl
@[simp] theorem answer_ci (r : Response) : (s.answer r).ci = s.ci := rfl
@[simp] theorem answer_handles (r : Response) : (s.answer r).handles = s.handles := rfl
@[simp] theorem answer_ckskip (r : Response) : (s.answer r).ckskip = s.ckskip := rfl
@[simp] theorem answer_result (r : Response) : (s.answer r).result = s.result := rfl
@[simp] theorem answer_ready (r : Response) : (s.answer r).ready = s.ready := rfl
@[simp] theorem answer_trace (r : Response) : (s.answer r).trace = s.trace := rfl
@[simp] theorem answer_responses (r : Response) : (s.answer r).responses = s.responses ++ [r] := rfl
@[simp] theorem answer_pending (r : Response) : (s.answer r).pending = s.pending := rfl
@[simp] theorem answer_template (r : Response) (S : FrameSpace) : (s.answer r).template S = s.template S := by cases S <;> rfl
@[simp] theorem answer_cells (r : Response) (S : FrameSpace) : (s.answer r).cells S = s.cells S := by cases S <;> rfl
@[simp] theorem answer_memRead (r : Response) (S : FrameSpace) (n : Nat) : (s.answer r).memRead S n = s.memRead S n := by
  cases S <;> rfl
@[simp] theorem answer_fieldRead (r : Response) (S : FrameSpace) (g : Field) : (s.answer r).fieldRead S g = s.fieldRead S g := by
  cases S <;> rfl

@[simp] theorem respond_params (v : RespValue) : (s.respond v).params = s.params := rfl
@[simp] theorem respond_hwHandle (v : RespValue) : (s.respond v).hwHandle = s.hwHandle := rfl
@[simp] theorem respond_temp (v : RespValue) : (s.respond v).temp = s.temp := rfl
@[simp] theorem respond_fan (v : RespValue) : (s.respond v).fan = s.fan := rfl
@[simp] theorem respond_mode (v : RespValue) : (s.respond v).mode = s.mode := rfl
@[simp] theorem respond_swing (v : RespValue) : (s.respond v).swing = s.swing := rfl
@[simp] theorem respond_variant (v : RespValue) : (s.respond v).variant = s.variant := rfl
@[simp] theorem respond_fn (v : RespValue) : (s.respond v).fn = s.fn := rfl
@[simp] theorem respond_ff (v : RespValue) : (s.respond v).ff = s.ff := rfl
@[simp] theorem respond_phase (v : RespValue) : (s.respond v).phase = s.phase := rfl
@[simp] theorem respond_await (v : RespValue) : (s.respond v).await = s.await := rfl
@[simp] theorem respond_wave (v : RespValue) : (s.respond v).wave = s.wave := rfl
@[simp] theorem respond_nch (v : RespValue) : (s.respond v).nch = s.nch := rfl
@[simp] theorem respond_ci (v : RespValue) : (s.respond v).ci = s.ci := rfl
@[simp] theorem respond_handles (v : RespValue) : (s.respond v).handles = s.handles := rfl
@[simp] theorem respond_ckskip (v : RespValue) : (s.respond v).ckskip = s.ckskip := rfl
@[simp] theorem respond_result (v : RespValue) : (s.respond v).result = s.result := rfl
@[simp] theorem respond_ready (v : RespValue) : (s.respond v).ready = s.ready := rfl
@[simp] theorem respond_trace (v : RespValue) : (s.respond v).trace = s.trace := rfl
@[simp] theorem respond_responses (v : RespValue) : (s.respond v).responses = s.responses ++ [.ok v] := rfl
@[simp] theorem respond_pending (v : RespValue) : (s.respond v).pending = s.pending := rfl
@[simp] theorem respond_template (v : RespValue) (S : FrameSpace) : (s.respond v).template S = s.template S := by cases S <;> rfl
@[simp] theorem respond_cells (v : RespValue) (S : FrameSpace) : (s.respond v).cells S = s.cells S := by cases S <;> rfl
@[simp] theorem respond_memRead (v : RespValue) (S : FrameSpace) (n : Nat) : (s.respond v).memRead S n = s.memRead S n := by
  cases S <;> rfl
@[simp] theorem respond_fieldRead (v : RespValue) (S : FrameSpace) (g : Field) : (s.respond v).fieldRead S g = s.fieldRead S g := by
  cases S <;> rfl

@[simp] theorem raise_params (f : SyncFailure) : (s.raise f).params = s.params := rfl
@[simp] theorem raise_hwHandle (f : SyncFailure) : (s.raise f).hwHandle = s.hwHandle := rfl
@[simp] theorem raise_temp (f : SyncFailure) : (s.raise f).temp = s.temp := rfl
@[simp] theorem raise_fan (f : SyncFailure) : (s.raise f).fan = s.fan := rfl
@[simp] theorem raise_mode (f : SyncFailure) : (s.raise f).mode = s.mode := rfl
@[simp] theorem raise_swing (f : SyncFailure) : (s.raise f).swing = s.swing := rfl
@[simp] theorem raise_variant (f : SyncFailure) : (s.raise f).variant = s.variant := rfl
@[simp] theorem raise_fn (f : SyncFailure) : (s.raise f).fn = s.fn := rfl
@[simp] theorem raise_ff (f : SyncFailure) : (s.raise f).ff = s.ff := rfl
@[simp] theorem raise_phase (f : SyncFailure) : (s.raise f).phase = s.phase := rfl
@[simp] theorem raise_await (f : SyncFailure) : (s.raise f).await = s.await := rfl
@[simp] theorem raise_wave (f : SyncFailure) : (s.raise f).wave = s.wave := rfl
@[simp] theorem raise_nch (f : SyncFailure) : (s.raise f).nch = s.nch := rfl
@[simp] theorem raise_ci (f : SyncFailure) : (s.raise f).ci = s.ci := rfl
@[simp] theorem raise_handles (f : SyncFailure) : (s.raise f).handles = s.handles := rfl
@[simp] theorem raise_ckskip (f : SyncFailure) : (s.raise f).ckskip = s.ckskip := rfl
@[simp] theorem raise_result (f : SyncFailure) : (s.raise f).result = s.result := rfl
@[simp] theorem raise_ready (f : SyncFailure) : (s.raise f).ready = s.ready := rfl
@[simp] theorem raise_trace (f : SyncFailure) : (s.raise f).trace = s.trace := rfl
@[simp] theorem raise_responses (f : SyncFailure) : (s.raise f).responses = s.responses ++ [.fail f] := rfl
@[simp] theorem raise_pending (f : SyncFailure) : (s.raise f).pending = s.pending := rfl
@[simp] theorem raise_template (f : SyncFailure) (S : FrameSpace) : (s.raise f).template S = s.template S := by cases S <;> rfl
@[simp] theorem raise_cells (f : SyncFailure) (S : FrameSpace) : (s.raise f).cells S = s.cells S := by cases S <;> rfl
@[simp] theorem raise_memRead (f : SyncFailure) (S : FrameSpace) (n : Nat) : (s.raise f).memRead S n = s.memRead S n := by
  cases S <;> rfl
@[simp] theorem raise_fieldRead (f : SyncFailure) (S : FrameSpace) (g : Field) : (s.raise f).fieldRead S g = s.fieldRead S g := by
  cases S <;> rfl

@[simp] theorem record_params (e : Event) : (s.record e).params = s.params := rfl
@[simp] theorem record_hwHandle (e : Event) : (s.record e).hwHandle = s.hwHandle := rfl
@[simp] theorem record_temp (e : Event) : (s.record e).temp = s.temp := rfl
@[simp] theorem record_fan (e : Event) : (s.record e).fan = s.fan := rfl
@[simp] theorem record_mode (e : Event) : (s.record e).mode = s.mode := rfl
@[simp] theorem record_swing (e : Event) : (s.record e).swing = s.swing := rfl
@[simp] theorem record_variant (e : Event) : (s.record e).variant = s.variant := rfl
@[simp] theorem record_fn (e : Event) : (s.record e).fn = s.fn := rfl
@[simp] theorem record_ff (e : Event) : (s.record e).ff = s.ff := rfl
@[simp] theorem record_phase (e : Event) : (s.record e).phase = s.phase := rfl
@[simp] theorem record_await (e : Event) : (s.record e).await = s.await := rfl
@[simp] theorem record_wave (e : Event) : (s.record e).wave = s.wave := rfl
@[simp] theorem record_nch (e : Event) : (s.record e).nch = s.nch := rfl
@[simp] theorem record_ci (e : Event) : (s.record e).ci = s.ci := rfl
@[simp] theorem record_handles (e : Event) : (s.record e).handles = s.handles := rfl
@[simp] theorem record_ckskip (e : Event) : (s.record e).ckskip = s.ckskip := rfl
@[simp] theorem record_result (e : Event) : (s.record e).result = s.result := rfl
@[simp] theorem record_ready (e : Event) : (s.record e).ready = s.ready := rfl
@[simp] theorem record_trace (e : Event) : (s.record e).trace = s.trace ++ [e] := rfl
@[simp] theorem record_responses (e : Event) : (s.record e).responses = s.responses := rfl
@[simp] theorem record_pending (e : Event) : (s.record e).pending = s.pending := rfl
@[simp] theorem record_template (e : Event) (S : FrameSpace) : (s.record e).template S = s.template S := by cases S <;> rfl
@[simp] theorem record_cells (e : Event) (S : FrameSpace) : (s.record e).cells S = s.cells S := by cases S <;> rfl
@[simp] theorem record_memRead (e : Event) (S : FrameSpace) (n : Nat) : (s.record e).memRead S n = s.memRead S n := by
  cases S <;> rfl
@[simp] theorem record_fieldRead (e : Event) (S : FrameSpace) (g : Field) : (s.record e).fieldRead S g = s.fieldRead S g := by
  cases S <;> rfl

@[simp] theorem issue_params (c : Outbound) : (s.issue c).params = s.params := rfl
@[simp] theorem issue_hwHandle (c : Outbound) : (s.issue c).hwHandle = s.hwHandle := rfl
@[simp] theorem issue_temp (c : Outbound) : (s.issue c).temp = s.temp := rfl
@[simp] theorem issue_fan (c : Outbound) : (s.issue c).fan = s.fan := rfl
@[simp] theorem issue_mode (c : Outbound) : (s.issue c).mode = s.mode := rfl
@[simp] theorem issue_swing (c : Outbound) : (s.issue c).swing = s.swing := rfl
@[simp] theorem issue_variant (c : Outbound) : (s.issue c).variant = s.variant := rfl
@[simp] theorem issue_fn (c : Outbound) : (s.issue c).fn = s.fn := rfl
@[simp] theorem issue_ff (c : Outbound) : (s.issue c).ff = s.ff := rfl
@[simp] theorem issue_phase (c : Outbound) : (s.issue c).phase = s.phase := rfl
@[simp] theorem issue_await (c : Outbound) : (s.issue c).await = true := rfl
@[simp] theorem issue_wave (c : Outbound) : (s.issue c).wave = s.wave := rfl
@[simp] theorem issue_nch (c : Outbound) : (s.issue c).nch = s.nch := rfl
@[simp] theorem issue_ci (c : Outbound) : (s.issue c).ci = s.ci := rfl
@[simp] theorem issue_handles (c : Outbound) : (s.issue c).handles = s.handles := rfl
@[simp] theorem issue_ckskip (c : Outbound) : (s.issue c).ckskip = s.ckskip := rfl
@[simp] theorem issue_result (c : Outbound) : (s.issue c).result = s.result := rfl
@[simp] theorem issue_ready (c : Outbound) : (s.issue c).ready = s.ready := rfl
@[simp] theorem issue_trace (c : Outbound) : (s.issue c).trace = s.trace ++ [.issue c] := rfl
@[simp] theorem issue_responses (c : Outbound) : (s.issue c).responses = s.responses := rfl
@[simp] theorem issue_pending (c : Outbound) : (s.issue c).pending = s.pending := rfl
@[simp] theorem issue_template (c : Outbound) (S : FrameSpace) : (s.issue c).template S = s.template S := by cases S <;> rfl
@[simp] theorem issue_cells (c : Outbound) (S : FrameSpace) : (s.issue c).cells S = s.cells S := by cases S <;> rfl
@[simp] theorem issue_memRead (c : Outbound) (S : FrameSpace) (n : Nat) : (s.issue c).memRead S n = s.memRead S n := by
  cases S <;> rfl
@[simp] theorem issue_fieldRead (c : Outbound) (S : FrameSpace) (g : Field) : (s.issue c).fieldRead S g = s.fieldRead S g := by
  cases S <;> rfl

@[simp] theorem finish_params (r : RunResult) (ph : Phase) : (s.finish r ph).params = s.params := rfl
@[simp] theorem finish_hwHandle (r : RunResult) (ph : Phase) : (s.finish r ph).hwHandle = s.hwHandle := rfl
@[simp] theorem finish_temp (r : RunResult) (ph : Phase) : (s.finish r ph).temp = s.temp := rfl
@[simp] theorem finish_fan (r : RunResult) (ph : Phase) : (s.finish r ph).fan = s.fan := rfl
@[simp] theorem finish_mode (r : RunResult) (ph : Phase) : (s.finish r ph).mode = s.mode := rfl
@[simp] theorem finish_swing (r : RunResult) (ph : Phase) : (s.finish r ph).swing = s.swing := rfl
@[simp] theorem finish_variant (r : RunResult) (ph : Phase) : (s.finish r ph).variant = s.variant := rfl
@[simp] theorem finish_fn (r : RunResult) (ph : Phase) : (s.finish r ph).fn = s.fn := rfl
@[simp] theorem finish_ff (r : RunResult) (ph : Phase) : (s.finish r ph).ff = s.ff := rfl
@[simp] theorem finish_phase (r : RunResult) (ph : Phase) : (s.finish r ph).phase = ph := rfl
@[simp] theorem finish_await (r : RunResult) (ph : Phase) : (s.finish r ph).await = s.await := rfl
@[simp] theorem finish_wave (r : RunResult) (ph : Phase) : (s.finish r ph).wave = s.wave := rfl
@[simp] theorem finish_nch (r : RunResult) (ph : Phase) : (s.finish r ph).nch = s.nch := rfl
@[simp] theorem finish_ci (r : RunResult) (ph : Phase) : (s.finish r ph).ci = s.ci := rfl
@[simp] theorem finish_handles (r : RunResult) (ph : Phase) : (s.finish r ph).handles = s.handles := rfl
@[simp] theorem finish_ckskip (r : RunResult) (ph : Phase) : (s.finish r ph).ckskip = s.ckskip := rfl
@[simp] theorem finish_result (r : RunResult) (ph : Phase) : (s.finish r ph).result = r := rfl
@[simp] theorem finish_ready (r : RunResult) (ph : Phase) : (s.finish r ph).ready = s.ready := rfl
@[simp] theorem finish_trace (r : RunResult) (ph : Phase) : (s.finish r ph).trace = s.trace ++ [.done r s.ckskip] := rfl
@[simp] theorem finish_responses (r : RunResult) (ph : Phase) : (s.finish r ph).responses = s.responses := rfl
@[simp] theorem finish_pending (r : RunResult) (ph : Phase) : (s.finish r ph).pending = s.pending := rfl
@[simp] theorem finish_template (r : RunResult) (ph : Phase) (S : FrameSpace) : (s.finish r ph).template S = s.template S := by cases S <;> rfl
@[simp] theorem finish_cells (r : RunResult) (ph : Phase) (S : FrameSpace) : (s.finish r ph).cells S = s.cells S := by cases S <;> rfl
@[simp] theorem finish_memRead (r : RunResult) (ph : Phase) (S : FrameSpace) (n : Nat) : (s.finish r ph).memRead S n = s.memRead S n := by
  cases S <;> rfl
@[simp] theorem finish_fieldRead (r : RunResult) (ph : Phase) (S : FrameSpace) (g : Field) : (s.finish r ph).fieldRead S g = s.fieldRead S g := by
  cases S <;> rfl

@[simp] theorem failRun_params (f : RunFailure) : (s.failRun f).params = s.params := rfl
@[simp] theorem failRun_hwHandle (f : RunFailure) : (s.failRun f).hwHandle = s.hwHandle := rfl
@[simp] theorem failRun_temp (f : RunFailure) : (s.failRun f).temp = s.temp := rfl
@[simp] theorem failRun_fan (f : RunFailure) : (s.failRun f).fan = s.fan := rfl
@[simp] theorem failRun_mode (f : RunFailure) : (s.failRun f).mode = s.mode := rfl
@[simp] theorem failRun_swing (f : RunFailure) : (s.failRun f).swing = s.swing := rfl
@[simp] theorem failRun_variant (f : RunFailure) : (s.failRun f).variant = s.variant := rfl
@[simp] theorem failRun_fn (f : RunFailure) : (s.failRun f).fn = s.fn := rfl
@[simp] theorem failRun_ff (f : RunFailure) : (s.failRun f).ff = s.ff := rfl
@[simp] theorem failRun_phase (f : RunFailure) : (s.failRun f).phase = .doneFail := rfl
@[simp] theorem failRun_await (f : RunFailure) : (s.failRun f).await = s.await := rfl
@[simp] theorem failRun_wave (f : RunFailure) : (s.failRun f).wave = s.wave := rfl
@[simp] theorem failRun_nch (f : RunFailure) : (s.failRun f).nch = s.nch := rfl
@[simp] theorem failRun_ci (f : RunFailure) : (s.failRun f).ci = s.ci := rfl
@[simp] theorem failRun_handles (f : RunFailure) : (s.failRun f).handles = s.handles := rfl
@[simp] theorem failRun_ckskip (f : RunFailure) : (s.failRun f).ckskip = s.ckskip := rfl
@[simp] theorem failRun_result (f : RunFailure) : (s.failRun f).result = .fail f := rfl
@[simp] theorem failRun_ready (f : RunFailure) : (s.failRun f).ready = s.ready := rfl
@[simp] theorem failRun_trace (f : RunFailure) : (s.failRun f).trace = s.trace ++ [.done (.fail f) s.ckskip] := rfl
@[simp] theorem failRun_responses (f : RunFailure) : (s.failRun f).responses = s.responses := rfl
@[simp] theorem failRun_pending (f : RunFailure) : (s.failRun f).pending = s.pending := rfl
@[simp] theorem failRun_template (f : RunFailure) (S : FrameSpace) : (s.failRun f).template S = s.template S := by cases S <;> rfl
@[simp] theorem failRun_cells (f : RunFailure) (S : FrameSpace) : (s.failRun f).cells S = s.cells S := by cases S <;> rfl
@[simp] theorem failRun_memRead (f : RunFailure) (S : FrameSpace) (n : Nat) : (s.failRun f).memRead S n = s.memRead S n := by
  cases S <;> rfl
@[simp] theorem failRun_fieldRead (f : RunFailure) (S : FrameSpace) (g : Field) : (s.failRun f).fieldRead S g = s.fieldRead S g := by
  cases S <;> rfl

@[simp] theorem landed_params (e : Event) : (s.landed e).params = s.params := rfl
@[simp] theorem landed_hwHandle (e : Event) : (s.landed e).hwHandle = s.hwHandle := rfl
@[simp] theorem landed_temp (e : Event) : (s.landed e).temp = s.temp := rfl
@[simp] theorem landed_fan (e : Event) : (s.landed e).fan = s.fan := rfl
@[simp] theorem landed_mode (e : Event) : (s.landed e).mode = s.mode := rfl
@[simp] theorem landed_swing (e : Event) : (s.landed e).swing = s.swing := rfl
@[simp] theorem landed_variant (e : Event) : (s.landed e).variant = s.variant := rfl
@[simp] theorem landed_fn (e : Event) : (s.landed e).fn = s.fn := rfl
@[simp] theorem landed_ff (e : Event) : (s.landed e).ff = s.ff := rfl
@[simp] theorem landed_phase (e : Event) : (s.landed e).phase = s.phase := rfl
@[simp] theorem landed_await (e : Event) : (s.landed e).await = false := rfl
@[simp] theorem landed_wave (e : Event) : (s.landed e).wave = s.wave := rfl
@[simp] theorem landed_nch (e : Event) : (s.landed e).nch = s.nch := rfl
@[simp] theorem landed_ci (e : Event) : (s.landed e).ci = s.ci := rfl
@[simp] theorem landed_handles (e : Event) : (s.landed e).handles = s.handles := rfl
@[simp] theorem landed_ckskip (e : Event) : (s.landed e).ckskip = s.ckskip := rfl
@[simp] theorem landed_result (e : Event) : (s.landed e).result = s.result := rfl
@[simp] theorem landed_ready (e : Event) : (s.landed e).ready = s.ready := rfl
@[simp] theorem landed_trace (e : Event) : (s.landed e).trace = s.trace ++ [e] := rfl
@[simp] theorem landed_responses (e : Event) : (s.landed e).responses = s.responses := rfl
@[simp] theorem landed_pending (e : Event) : (s.landed e).pending = s.pending := rfl
@[simp] theorem landed_template (e : Event) (S : FrameSpace) : (s.landed e).template S = s.template S := by cases S <;> rfl
@[simp] theorem landed_cells (e : Event) (S : FrameSpace) : (s.landed e).cells S = s.cells S := by cases S <;> rfl
@[simp] theorem landed_memRead (e : Event) (S : FrameSpace) (n : Nat) : (s.landed e).memRead S n = s.memRead S n := by
  cases S <;> rfl
@[simp] theorem landed_fieldRead (e : Event) (S : FrameSpace) (g : Field) : (s.landed e).fieldRead S g = s.fieldRead S g := by
  cases S <;> rfl

@[simp] theorem setCells_params (S : FrameSpace) (m : Memory) : (s.setCells S m).params = s.params := by cases S <;> rfl
@[simp] theorem setCells_hwHandle (S : FrameSpace) (m : Memory) : (s.setCells S m).hwHandle = s.hwHandle := by cases S <;> rfl
@[simp] theorem setCells_temp (S : FrameSpace) (m : Memory) : (s.setCells S m).temp = s.temp := by cases S <;> rfl
@[simp] theorem setCells_fan (S : FrameSpace) (m : Memory) : (s.setCells S m).fan = s.fan := by cases S <;> rfl
@[simp] theorem setCells_mode (S : FrameSpace) (m : Memory) : (s.setCells S m).mode = s.mode := by cases S <;> rfl
@[simp] theorem setCells_swing (S : FrameSpace) (m : Memory) : (s.setCells S m).swing = s.swing := by cases S <;> rfl
@[simp] theorem setCells_variant (S : FrameSpace) (m : Memory) : (s.setCells S m).variant = s.variant := by cases S <;> rfl
@[simp] theorem setCells_fn (m : Memory) : (s.setCells .fn m).fn = m := rfl
@[simp] theorem setCells_ff_fn (m : Memory) : (s.setCells .ff m).fn = s.fn := rfl
@[simp] theorem setCells_ff (m : Memory) : (s.setCells .ff m).ff = m := rfl
@[simp] theorem setCells_fn_ff (m : Memory) : (s.setCells .fn m).ff = s.ff := rfl
@[simp] theorem setCells_phase (S : FrameSpace) (m : Memory) : (s.setCells S m).phase = s.phase := by cases S <;> rfl
@[simp] theorem setCells_await (S : FrameSpace) (m : Memory) : (s.setCells S m).await = s.await := by cases S <;> rfl
@[simp] theorem setCells_wave (S : FrameSpace) (m : Memory) : (s.setCells S m).wave = s.wave := by cases S <;> rfl
@[simp] theorem setCells_nch (S : FrameSpace) (m : Memory) : (s.setCells S m).nch = s.nch := by cases S <;> rfl
@[simp] theorem setCells_ci (S : FrameSpace) (m : Memory) : (s.setCells S m).ci = s.ci := by cases S <;> rfl
@[simp] theorem setCells_handles (S : FrameSpace) (m : Memory) : (s.setCells S m).handles = s.handles := by cases S <;> rfl
@[simp] theorem setCells_ckskip (S : FrameSpace) (m : Memory) : (s.setCells S m).ckskip = s.ckskip := by cases S <;> rfl
@[simp] theorem setCells_result (S : FrameSpace) (m : Memory) : (s.setCells S m).result = s.result := by cases S <;> rfl
@[simp] theorem setCells_ready (S : FrameSpace) (m : Memory) : (s.setCells S m).ready = s.ready := by cases S <;> rfl
@[simp] theorem setCells_trace (S : FrameSpace) (m : Memory) : (s.setCells S m).trace = s.trace := by cases S <;> rfl
@[simp] theorem setCells_responses (S : FrameSpace) (m : Memory) : (s.setCells S m).responses = s.responses := by cases S <;> rfl
@[simp] theorem setCells_pending (S : FrameSpace) (m : Memory) : (s.setCells S m).pending = s.pending := by cases S <;> rfl
@[simp] theorem setCells_template (S S' : FrameSpace) (m : Memory) : (s.setCells S m).template S' = s.template S' := by
  cases S <;> cases S' <;> rfl
@[simp] theorem setCells_cells_self (S : FrameSpace) (m : Memory) : (s.setCells S m).cells S = m := by
  cases S <;> rfl
theorem setCells_cells_ne {S S' : FrameSpace} (m : Memory) (h : S' ≠ S) : (s.setCells S m).cells S' = s.cells S' := by
  cases S <;> cases S' <;> first | rfl | exact absurd rfl h

end Sys2Proof.Machine.State

namespace Sys2Proof.Machine

/-- A response is the only thing that a raised failure adds (60_exceptions.md R122). -/
theorem raise_eq (s : State) (f : SyncFailure) :
    s.raise f = { s with responses := s.responses ++ [.fail f] } := rfl

end Sys2Proof.Machine
end

