-- ==== Sys2Proof/Laws/Memory.lean ====
section
/-! SUPPORT. The laws of the frame buffers: read after write, a write leaves the other bytes alone, every
write keeps the canonical form, and which indices exist. -/

namespace Sys2Proof

theorem templateByte_isSome {t : List Byte} {n : Nat} :
    (templateByte t n).isSome = true ↔ 1 ≤ n ∧ n ≤ t.length := by
  unfold templateByte
  split
  · simp; omega
  · simp; omega

theorem templateByte_eq_none {t : List Byte} {n : Nat} :
    templateByte t n = none ↔ ¬ (1 ≤ n ∧ n ≤ t.length) := by
  rw [← templateByte_isSome, Bool.not_eq_true, Option.isSome_eq_false_iff, Option.isNone_iff_eq_none]

theorem exists_templateByte {t : List Byte} {n : Nat} (h : 1 ≤ n ∧ n ≤ t.length) :
    ∃ d, templateByte t n = some d := Option.isSome_iff_exists.mp (templateByte_isSome.mpr h)

theorem templateByte_cons_succ (d : Byte) (t : List Byte) (n : Nat) (h : n ≠ 0) :
    templateByte (d :: t) (n + 1) = templateByte t n := by
  obtain ⟨k, rfl⟩ := Nat.exists_eq_succ_of_ne_zero h
  simp [templateByte]

namespace Machine.Memory

theorem lookup_insert_self (m : Memory) (n : Nat) (v : Byte) : lookup (insert m n v) n = some v := by
  induction m with
  | nil => simp [insert, lookup]
  | cons c rest ih =>
    obtain ⟨a, b⟩ := c
    simp only [insert]
    split
    · simp [lookup]
    · split
      · simp [lookup]
      · simp only [lookup]
        rw [if_neg (by omega), ih]

theorem lookup_insert_ne (m : Memory) {n k : Nat} (v : Byte) (h : k ≠ n) :
    lookup (insert m n v) k = lookup m k := by
  induction m with
  | nil => simp [insert, lookup, Ne.symm h]
  | cons c rest ih =>
    obtain ⟨a, b⟩ := c
    simp only [insert]
    split
    · simp [lookup, Ne.symm h]
    · split
      · next hna => subst hna; simp [lookup, Ne.symm h]
      · simp [lookup, ih]

theorem lookup_erase_self (m : Memory) (n : Nat) : lookup (erase m n) n = none := by
  induction m with
  | nil => rfl
  | cons c rest ih =>
    obtain ⟨a, b⟩ := c
    simp only [erase]
    split
    · exact ih
    · next h => simp [lookup, h, ih]

theorem lookup_erase_ne (m : Memory) {n k : Nat} (h : k ≠ n) : lookup (erase m n) k = lookup m k := by
  induction m with
  | nil => rfl
  | cons c rest ih =>
    obtain ⟨a, b⟩ := c
    simp only [erase]
    split
    · next hna => subst hna; simp [lookup, Ne.symm h, ih]
    · simp [lookup, ih]

/-- An index outside 1..length has no byte, and no other index is without one. -/
theorem read_eq_none {t : List Byte} {m : Memory} {n : Nat} :
    read t m n = none ↔ ¬ (1 ≤ n ∧ n ≤ t.length) := by
  rw [← templateByte_eq_none]
  unfold read
  split <;> simp_all

theorem exists_read {t : List Byte} (m : Memory) {n : Nat} (h : 1 ≤ n ∧ n ≤ t.length) :
    ∃ b, read t m n = some b := by
  obtain ⟨d, hd⟩ := exists_templateByte h
  simp [read, hd]

theorem write_eq_none {t : List Byte} {m : Memory} {n : Nat} {v : Byte} :
    write t m n v = none ↔ ¬ (1 ≤ n ∧ n ≤ t.length) := by
  rw [← templateByte_eq_none]
  unfold write
  split <;> simp_all

theorem exists_write {t : List Byte} (m : Memory) {n : Nat} (v : Byte) (h : 1 ≤ n ∧ n ≤ t.length) :
    ∃ m', write t m n v = some m' := by
  obtain ⟨d, hd⟩ := exists_templateByte h
  simp [write, hd]

/-- What a write answers: the entry is taken away where it would repeat the template, else it is put in. -/
theorem write_cases {t : List Byte} {m m' : Memory} {n : Nat} {v : Byte} (h : write t m n v = some m') :
    ∃ d, templateByte t n = some d ∧ ((v = d ∧ m' = erase m n) ∨ (v ≠ d ∧ m' = insert m n v)) := by
  unfold write at h
  split at h
  · cases h
  · next d hd =>
    refine ⟨d, hd, ?_⟩
    by_cases hv : v = d <;> simp_all

theorem read_write_self {t : List Byte} {m m' : Memory} {n : Nat} {v : Byte}
    (h : write t m n v = some m') : read t m' n = some v := by
  obtain ⟨d, hd, ⟨rfl, rfl⟩ | ⟨-, rfl⟩⟩ := write_cases h
  · simp [read, hd, lookup_erase_self]
  · simp [read, hd, lookup_insert_self]

theorem read_write_ne {t : List Byte} {m m' : Memory} {n k : Nat} {v : Byte}
    (h : write t m n v = some m') (hk : k ≠ n) : read t m' k = read t m k := by
  obtain ⟨d, hd, ⟨rfl, rfl⟩ | ⟨-, rfl⟩⟩ := write_cases h
  · simp [read, lookup_erase_ne m hk]
  · simp [read, lookup_insert_ne m v hk]

theorem risingFrom_mono {j k : Nat} {m : Memory} (h : risingFrom k m = true) (hj : j ≤ k) :
    risingFrom j m = true := by
  cases m with
  | nil => rfl
  | cons c rest =>
    obtain ⟨a, b⟩ := c
    simp only [risingFrom, Bool.and_eq_true, decide_eq_true_eq] at h ⊢
    exact ⟨by omega, h.2⟩

theorem risingFrom_erase {k : Nat} {m : Memory} (n : Nat) (h : risingFrom k m = true) :
    risingFrom k (erase m n) = true := by
  induction m generalizing k with
  | nil => rfl
  | cons c rest ih =>
    obtain ⟨a, b⟩ := c
    simp only [risingFrom, Bool.and_eq_true, decide_eq_true_eq] at h
    simp only [erase]
    split
    · exact ih (risingFrom_mono h.2 (by omega))
    · simp only [risingFrom, Bool.and_eq_true, decide_eq_true_eq]
      exact ⟨h.1, ih h.2⟩

theorem risingFrom_insert {k n : Nat} {m : Memory} (v : Byte) (h : risingFrom k m = true) (hn : k < n) :
    risingFrom k (insert m n v) = true := by
  induction m generalizing k with
  | nil => simp [insert, risingFrom, hn]
  | cons c rest ih =>
    obtain ⟨a, b⟩ := c
    simp only [risingFrom, Bool.and_eq_true, decide_eq_true_eq] at h
    simp only [insert]
    split
    · simp only [risingFrom, Bool.and_eq_true, decide_eq_true_eq]
      exact ⟨hn, by omega, h.2⟩
    · split
      · next hna =>
        subst hna
        simp only [risingFrom, Bool.and_eq_true, decide_eq_true_eq]
        exact h
      · simp only [risingFrom, Bool.and_eq_true, decide_eq_true_eq]
        exact ⟨h.1, ih h.2 (by omega)⟩

theorem differs_cons {t : List Byte} {c : Host.Cell} {rest : Memory} :
    differs t (c :: rest) = true ↔
      (∃ d, templateByte t c.1 = some d ∧ c.2 ≠ d) ∧ differs t rest = true := by
  simp only [differs, List.all_cons, Bool.and_eq_true]
  constructor
  · rintro ⟨h, hr⟩
    refine ⟨?_, hr⟩
    split at h
    · next d hd => exact ⟨d, hd, by simpa using h⟩
    · cases h
  · rintro ⟨⟨d, hd, hne⟩, hr⟩
    exact ⟨by simp [hd, hne], hr⟩

theorem differs_erase {t : List Byte} {m : Memory} (n : Nat) (h : differs t m = true) :
    differs t (erase m n) = true := by
  induction m with
  | nil => rfl
  | cons c rest ih =>
    obtain ⟨a, b⟩ := c
    rw [differs_cons] at h
    simp only [erase]
    split
    · exact ih h.2
    · exact differs_cons.mpr ⟨h.1, ih h.2⟩

theorem differs_insert {t : List Byte} {m : Memory} {n : Nat} {v d : Byte} (h : differs t m = true)
    (hd : templateByte t n = some d) (hv : v ≠ d) : differs t (insert m n v) = true := by
  induction m with
  | nil => exact differs_cons.mpr ⟨⟨d, hd, hv⟩, rfl⟩
  | cons c rest ih =>
    obtain ⟨a, b⟩ := c
    have hc := differs_cons.mp h
    simp only [insert]
    split
    · exact differs_cons.mpr ⟨⟨d, hd, hv⟩, h⟩
    · split
      · exact differs_cons.mpr ⟨⟨d, hd, hv⟩, hc.2⟩
      · exact differs_cons.mpr ⟨hc.1, ih hc.2⟩

/-- Every write keeps the canonical form. -/
theorem write_wf {t : List Byte} {m m' : Memory} {n : Nat} {v : Byte} (hm : wf t m = true)
    (h : write t m n v = some m') : wf t m' = true := by
  simp only [wf, Bool.and_eq_true] at hm ⊢
  obtain ⟨d, hd, ⟨-, rfl⟩ | ⟨hv, rfl⟩⟩ := write_cases h
  · exact ⟨risingFrom_erase n hm.1, differs_erase n hm.2⟩
  · have hn : 1 ≤ n := (templateByte_isSome.mp (by rw [hd]; rfl)).1
    exact ⟨risingFrom_insert v hm.1 (by omega), differs_insert hm.2 hd hv⟩

theorem wf_nil (t : List Byte) : wf t [] = true := rfl

@[simp] theorem bytesFrom_length (m : Memory) (n : Nat) (t : List Byte) :
    (bytesFrom m n t).length = t.length := by
  induction t generalizing n with
  | nil => rfl
  | cons d rest ih => simp [bytesFrom, ih]

theorem bytesFrom_getElem? (m : Memory) (n : Nat) (t : List Byte) (k : Nat) :
    (bytesFrom m n t)[k]? = t[k]?.map fun d => (lookup m (n + k)).getD d := by
  induction t generalizing n k with
  | nil => simp [bytesFrom]
  | cons d rest ih =>
    cases k with
    | zero => simp [bytesFrom]
    | succ k => simp [bytesFrom, ih, Nat.add_assoc, Nat.add_comm 1 k]

/-- The frame's list of bytes is the buffer read index by index. -/
theorem bytesFrom_one_getElem? (m : Memory) (t : List Byte) (k : Nat) :
    (bytesFrom m 1 t)[k]? = read t m (k + 1) := by
  rw [bytesFrom_getElem?]
  simp only [read, templateByte, Nat.add_sub_cancel, Nat.succ_ne_zero, if_false]
  cases t[k]? <;> simp [Nat.add_comm]

end Machine.Memory

namespace Machine.State

theorem memRead_eq_none {s : State} {S : FrameSpace} {n : Nat} :
    s.memRead S n = none ↔ ¬ (1 ≤ n ∧ n ≤ (s.template S).length) := Memory.read_eq_none

theorem exists_memRead (s : State) {S : FrameSpace} {n : Nat} (h : 1 ≤ n ∧ n ≤ (s.template S).length) :
    ∃ b, s.memRead S n = some b := Memory.exists_read _ h

/-- What a byte write can do: it needs an index that exists, and replaces that buffer's list alone. -/
theorem memWrite_cases {s s' : State} {S : FrameSpace} {n : Nat} {v : Byte}
    (h : s.memWrite S n v = some s') :
    ∃ m, (s.cells S).write (s.template S) n v = some m ∧ s' = s.setCells S m := by
  unfold memWrite at h
  split at h
  · next m hm => exact ⟨m, hm, by simpa using h.symm⟩
  · cases h

theorem memWrite_eq_none {s : State} {S : FrameSpace} {n : Nat} {v : Byte} :
    s.memWrite S n v = none ↔ ¬ (1 ≤ n ∧ n ≤ (s.template S).length) := by
  rw [← Memory.write_eq_none (m := s.cells S) (v := v)]
  unfold memWrite
  split <;> simp_all

theorem exists_memWrite (s : State) {S : FrameSpace} {n : Nat} (v : Byte)
    (h : 1 ≤ n ∧ n ≤ (s.template S).length) : ∃ s', s.memWrite S n v = some s' := by
  obtain ⟨m, hm⟩ := Memory.exists_write (s.cells S) v h
  simp [memWrite, hm]

/-- Read after write of the same byte. -/
theorem memRead_memWrite_self {s s' : State} {S : FrameSpace} {n : Nat} {v : Byte}
    (h : s.memWrite S n v = some s') : s'.memRead S n = some v := by
  obtain ⟨m, hm, rfl⟩ := memWrite_cases h
  simpa [memRead] using Memory.read_write_self hm

/-- A write leaves every other byte of both buffers alone. -/
theorem memRead_memWrite_ne {s s' : State} {S S' : FrameSpace} {n k : Nat} {v : Byte}
    (h : s.memWrite S n v = some s') (hk : ¬ (S' = S ∧ k = n)) : s'.memRead S' k = s.memRead S' k := by
  obtain ⟨m, hm, rfl⟩ := memWrite_cases h
  by_cases hS : S' = S
  · subst hS
    simpa [memRead] using Memory.read_write_ne hm (fun e => hk ⟨rfl, e⟩)
  · simp [memRead, setCells_cells_ne s m hS]

/-- A write keeps both buffers canonical. -/
theorem memWrite_wf {s s' : State} {S : FrameSpace} {n : Nat} {v : Byte}
    (h : s.memWrite S n v = some s') (hw : ∀ S', Memory.wf (s.template S') (s.cells S') = true)
    (S' : FrameSpace) : Memory.wf (s'.template S') (s'.cells S') = true := by
  obtain ⟨m, hm, rfl⟩ := memWrite_cases h
  by_cases hS : S' = S
  · subst hS
    simpa using Memory.write_wf (hw S') hm
  · simpa [setCells_cells_ne s m hS] using hw S'

@[simp] theorem frame_length (s : State) (S : FrameSpace) : (s.frame S).length = (s.template S).length :=
  Memory.bytesFrom_length _ _ _

/-- Element k of the frame is byte k + 1 (20_memory.md R37). -/
theorem frame_getElem? (s : State) (S : FrameSpace) (k : Nat) : (s.frame S)[k]? = s.memRead S (k + 1) :=
  Memory.bytesFrom_one_getElem? _ _ _

/-- A byte write changes no field of the state but its buffer. -/
theorem memWrite_eq {s s' : State} {S : FrameSpace} {n : Nat} {v : Byte}
    (h : s.memWrite S n v = some s') : s' = { s with fn := s'.fn, ff := s'.ff } := by
  obtain ⟨m, -, rfl⟩ := memWrite_cases h
  cases S <;> rfl

end Machine.State

end Sys2Proof
end

