-- ==== Sys2Proof/Laws/Table.lean ====
section
/-! SUPPORT. What the checks of 10_state.md R20 say of admitted parameters, one lemma per use, and the laws
of a field's bits (R19). -/

namespace Sys2Proof

/-- The parts of the admission check. -/
theorem Params.admitted_checks {p : Params} (h : p.admitted = true) :
    (p.vt.checkBounds = true ∧ p.vt.checkLengths = true ∧ p.vt.checkChecksum = true ∧
      p.vt.checkFields = true ∧ p.vt.checkMaps = true ∧ p.vt.checkTemps = true ∧
      p.vt.checkDefaults = true ∧ p.vt.checkPower = true) ∧
    (p.checkKeys p.vt.fanMap = true ∧ p.checkKeys p.vt.modeMap = true ∧
      p.checkKeys p.vt.swingMap = true ∧ p.vt.checkTimings = true) ∧
    p.checkNames = true ∧ p.checkPlatform = true := by
  simp only [admitted, checkTable, Bool.and_eq_true] at h
  tauto

theorem Params.admitted_bounds {p : Params} (h : p.admitted = true) :
    p.vt.tempMin ≤ p.vt.defaultTemp ∧ p.vt.defaultTemp ≤ p.vt.tempMax := by
  simpa [VendorTable.checkBounds] using (admitted_checks h).1.1

theorem Params.admitted_lengths {p : Params} (h : p.admitted = true) :
    1 ≤ p.vt.lenOn ∧ p.vt.lenOn ≤ 255 := by
  have := (admitted_checks h).1.2.1
  simp only [VendorTable.checkLengths, Bool.and_eq_true, decide_eq_true_eq] at this
  exact this.1

theorem Params.admitted_checksum {p : Params} (h : p.admitted = true) :
    p.vt.ckLen = p.vt.lenOn ∧ 1 ≤ p.vt.ckLo ∧ p.vt.ckLo ≤ p.vt.ckHi ∧ p.vt.ckHi ≤ p.vt.ckLen ∧
      1 ≤ p.vt.ckPos ∧ p.vt.ckPos ≤ p.vt.ckLen ∧ (p.vt.ckPos < p.vt.ckLo ∨ p.vt.ckHi < p.vt.ckPos) := by
  have := (admitted_checks h).1.2.2.1
  simp only [VendorTable.checkChecksum, Bool.and_eq_true, Bool.or_eq_true, decide_eq_true_eq] at this
  tauto

/-- Every field lies in the normal frame, off the checksum byte (R20 check 4). -/
theorem Params.admitted_field {p : Params} (h : p.admitted = true) {f : Field} (hf : f ∈ p.vt.fields) :
    (1 ≤ f.pos ∧ f.pos ≤ p.vt.frameOn.length) ∧ f.pos ≠ p.vt.ckPos ∧ f.mask ≠ 0#8 ∧ f.shift ≤ 7 := by
  have := (admitted_checks h).1.2.2.2.1
  simp only [VendorTable.checkFields, Bool.and_eq_true, List.all_eq_true] at this
  have := this.1 f hf
  simp only [VendorTable.checkField, Bool.and_eq_true, decide_eq_true_eq] at this
  tauto

theorem VendorTable.fldTemp_mem (vt : VendorTable) : vt.fldTemp ∈ vt.fields := by simp [fields]
theorem VendorTable.fldFan_mem (vt : VendorTable) : vt.fldFan ∈ vt.fields := by simp [fields]
theorem VendorTable.fldMode_mem (vt : VendorTable) : vt.fldMode ∈ vt.fields := by simp [fields]
theorem VendorTable.fldSwing_mem (vt : VendorTable) : vt.fldSwing ∈ vt.fields := by simp [fields]
theorem VendorTable.fldPower_mem (vt : VendorTable) {pf : PowerField} (h : vt.fldPower = some pf) :
    pf.field ∈ vt.fields := by simp [fields, h]

/-- Two different fields of the table own no common bit of one byte (R20 check 4). -/
def Field.Disjoint (f g : Field) : Prop := f.pos ≠ g.pos ∨ f.mask &&& g.mask = 0#8

theorem Field.Disjoint.symm {f g : Field} (h : f.Disjoint g) : g.Disjoint f := by
  rcases h with h | h
  · exact .inl (Ne.symm h)
  · exact .inr (by rw [BitVec.and_comm]; exact h)

theorem VendorTable.pairwiseDisjoint_iff (fs : List Field) :
    pairwiseDisjoint fs = true ↔ fs.Pairwise Field.Disjoint := by
  induction fs with
  | nil => simp [pairwiseDisjoint]
  | cons f fs ih => simp [pairwiseDisjoint, ih, disjointFields, Field.Disjoint]

theorem Params.admitted_disjoint {p : Params} (h : p.admitted = true) :
    p.vt.fields.Pairwise Field.Disjoint := by
  have := (admitted_checks h).1.2.2.2.1
  simp only [VendorTable.checkFields, Bool.and_eq_true] at this
  exact (VendorTable.pairwiseDisjoint_iff _).mp this.2

theorem mem_intsFrom {lo t : Int} {k : Nat} (h₁ : lo ≤ t) (h₂ : t < lo + k) : t ∈ intsFrom lo k := by
  induction k generalizing lo with
  | zero => omega
  | succ k ih =>
    by_cases h : t = lo
    · simp [intsFrom, h]
    · exact List.mem_cons_of_mem _ (ih (by omega) (by omega))

/-- Every temperature within the bounds has a code that fits its field and decodes back (R20 check 6). -/
theorem Params.admitted_temp {p : Params} (h : p.admitted = true) {t : Int} (h₁ : p.vt.tempMin ≤ t)
    (h₂ : t ≤ p.vt.tempMax) :
    ∃ e, encodeTemp p.vt.encTemp t = some e ∧ p.vt.fldTemp.fits e = true ∧
      decodeTemp p.vt.decTemp e = some t := by
  have hc := (admitted_checks h).1.2.2.2.2.2.1
  simp only [VendorTable.checkTemps, List.all_eq_true] at hc
  have := hc t (mem_intsFrom h₁ (by omega))
  simp only [VendorTable.checkTemp] at this
  split at this
  · next e he =>
    simp only [Bool.and_eq_true, decide_eq_true_eq] at this
    exact ⟨e, he, this⟩
  · cases this

theorem lookupCode_mem {m : List (Nat × Nat)} {nid c : Nat} (h : lookupCode m nid = some c) :
    (nid, c) ∈ m := by
  induction m with
  | nil => cases h
  | cons e rest ih =>
    obtain ⟨k, c'⟩ := e
    simp only [lookupCode] at h
    split at h
    · next hk => subst hk; cases h; simp
    · exact List.mem_cons_of_mem _ (ih h)

theorem lookupCode_code_mem {m : List (Nat × Nat)} {nid c : Nat} (h : lookupCode m nid = some c) :
    c ∈ m.map (·.2) := List.mem_map.mpr ⟨_, lookupCode_mem h, rfl⟩

theorem allDistinct_nodup {α : Type} [DecidableEq α] {xs : List α} (h : allDistinct xs = true) :
    xs.Nodup := by
  induction xs with
  | nil => simp
  | cons x xs ih =>
    simp only [allDistinct, Bool.and_eq_true, List.all_eq_true, decide_eq_true_eq] at h
    exact List.nodup_cons.mpr ⟨fun hx => h.1 x hx rfl, ih h.2⟩

/-- In a map whose codes are distinct, the inverse of a key's code is the key. -/
theorem inverseCode_lookupCode {m : List (Nat × Nat)} {nid c : Nat} (hd : (m.map (·.2)).Nodup)
    (h : lookupCode m nid = some c) : inverseCode m c = some nid := by
  induction m with
  | nil => cases h
  | cons e rest ih =>
    obtain ⟨k, c'⟩ := e
    simp only [List.map_cons, List.nodup_cons] at hd
    simp only [lookupCode] at h
    simp only [inverseCode]
    split at h
    · next hk => cases h; simp [hk]
    · have : c' ≠ c := fun e => hd.1 (e ▸ lookupCode_code_mem h)
      rw [if_neg this, ih hd.2 h]

/-- What R20 check 5 says of one map. -/
theorem VendorTable.checkMap_spec {m : List (Nat × Nat)} {f : Field} (h : checkMap m f = true) :
    (m.map (·.2)).Nodup ∧ ∀ nid c, lookupCode m nid = some c → f.fits c = true := by
  simp only [checkMap, Bool.and_eq_true, List.all_eq_true] at h
  exact ⟨allDistinct_nodup h.1.2, fun nid c hc => h.2 _ (lookupCode_mem hc)⟩

theorem Params.admitted_maps {p : Params} (h : p.admitted = true) :
    VendorTable.checkMap p.vt.fanMap p.vt.fldFan = true ∧
      VendorTable.checkMap p.vt.modeMap p.vt.fldMode = true ∧
      VendorTable.checkMap p.vt.swingMap p.vt.fldSwing = true := by
  have := (admitted_checks h).1.2.2.2.2.1
  simp only [VendorTable.checkMaps, Bool.and_eq_true] at this
  tauto

/-- What R20 checks 7 and 8 say of one option's default. -/
theorem VendorTable.checkDefault_spec {vt : VendorTable} {m : List (Nat × Nat)} {nid : Nat} {f : Field}
    (h : vt.checkDefault m nid f = true) :
    ∃ c b, lookupCode m nid = some c ∧ templateByte vt.frameOn f.pos = some b ∧ f.insert b c = b := by
  simp only [checkDefault] at h
  split at h
  · next c hc =>
    simp only [Field.holds] at h
    split at h
    · next b hb => exact ⟨c, b, hc, hb, by simpa using h⟩
    · cases h
  · cases h

/-- What R20 checks 7 and 8 say of the defaults. -/
theorem Params.admitted_defaults {p : Params} (h : p.admitted = true) :
    p.vt.checkDefaultTemp = true ∧ p.vt.checkDefault p.vt.fanMap p.vt.defaultFan p.vt.fldFan = true ∧
      p.vt.checkDefault p.vt.modeMap p.vt.defaultMode p.vt.fldMode = true ∧
      p.vt.checkDefault p.vt.swingMap p.vt.defaultSwing p.vt.fldSwing = true ∧
      ∀ pf, p.vt.fldPower = some pf → pf.field.holds p.vt.frameOn pf.pwrOn = true := by
  have := (admitted_checks h).1.2.2.2.2.2.2.1
  simp only [VendorTable.checkDefaults, Bool.and_eq_true] at this
  refine ⟨this.1.1.1.1, this.1.1.1.2, this.1.1.2, this.1.2, fun pf hpf => ?_⟩
  simpa [hpf] using this.2

/-- The platform's ranges (93_implementation_defined.md I14). -/
theorem Params.admitted_platform {p : Params} (h : p.admitted = true) :
    1 ≤ p.chunkSize ∧ p.emitPin ≤ 31 ∧ p.tTail1 < 2 ^ 32 ∧ p.tTail2 < 2 ^ 32 := by
  have := (admitted_checks h).2.2.2
  simp only [checkPlatform, Bool.and_eq_true, decide_eq_true_eq] at this
  tauto

/-- A key of a map names a string of NAMES that is not "ULTRA" (R20 check 11). -/
theorem Params.checkKeys_spec {p : Params} {m : List (Nat × Nat)} (h : p.checkKeys m = true) {nid c : Nat}
    (hc : lookupCode m nid = some c) : nid < p.names.length ∧ p.nameOf nid ≠ some "ULTRA" := by
  simp only [checkKeys, List.all_eq_true] at h
  simpa using h _ (lookupCode_mem hc)

namespace Field

/-- A bit outside the mask keeps its value (10_state.md R19). -/
theorem insert_getLsbD_outside (f : Field) (b : Byte) (v j : Nat) (h : f.mask.getLsbD j = false) :
    (f.insert b v).getLsbD j = b.getLsbD j := by
  simp only [insert, BitVec.getLsbD_or, BitVec.getLsbD_and, BitVec.getLsbD_not, h, Bool.and_false,
    Bool.or_false, Bool.not_false, Bool.and_true]
  by_cases hj : j < 8
  · simp [hj]
  · simp [BitVec.getLsbD_of_ge b j (by omega)]

/-- The byte's part under the mask after a write is the value's. -/
theorem insert_and_mask (f : Field) (b : Byte) (v : Nat) :
    f.insert b v &&& f.mask = BitVec.ofNat 8 (v * 2 ^ f.shift) &&& f.mask := by
  ext j hj
  simp only [insert, BitVec.getElem_and, BitVec.getElem_or, BitVec.getElem_not]
  cases f.mask[j] <;> simp

theorem and_mask_of_fits {f : Field} {v : Nat} (h : f.fits v = true) :
    BitVec.ofNat 8 (v * 2 ^ f.shift) &&& f.mask = BitVec.ofNat 8 (v * 2 ^ f.shift) := by
  simp only [fits, Bool.and_eq_true, decide_eq_true_eq] at h
  have h2 := h.2
  ext j hj
  have := congrArg (fun x : Byte => x[j]) h2
  simp only [BitVec.getElem_and, BitVec.getElem_not, BitVec.getElem_zero] at this
  simp only [BitVec.getElem_and]
  cases hm : f.mask[j] <;> simp_all

/-- Reading a field back gives a value that fits it (40_protocol_state.md R75). -/
theorem extract_insert {f : Field} {v : Nat} (b : Byte) (h : f.fits v = true) :
    f.extract (f.insert b v) = v := by
  have hle : v * 2 ^ f.shift ≤ 255 := by
    simp only [fits, Bool.and_eq_true, decide_eq_true_eq] at h
    exact h.1
  rw [extract, insert_and_mask, and_mask_of_fits h, BitVec.toNat_ofNat, Nat.mod_eq_of_lt (by omega),
    Nat.mul_div_cancel _ (by positivity)]

theorem insert_insert (f : Field) (b : Byte) (v : Nat) : f.insert (f.insert b v) v = f.insert b v := by
  ext j hj
  simp only [insert, BitVec.getElem_and, BitVec.getElem_or, BitVec.getElem_not]
  cases f.mask[j] <;> simp

/-- A field that owns none of the written bits reads as before. -/
theorem extract_insert_of_disjoint {f g : Field} (b : Byte) (v : Nat) (h : f.mask &&& g.mask = 0#8) :
    g.extract (f.insert b v) = g.extract b := by
  have : f.insert b v &&& g.mask = b &&& g.mask := by
    ext j hj
    have hj' := congrArg (fun x : Byte => x[j]) h
    simp only [BitVec.getElem_and, BitVec.getElem_zero] at hj'
    simp only [insert, BitVec.getElem_and, BitVec.getElem_or, BitVec.getElem_not]
    cases hf : f.mask[j] <;> cases hg : g.mask[j] <;> simp_all
  rw [extract, this, extract]

end Field

end Sys2Proof
end

