-- ==== Sys2Proof/Laws/Operands.lean ====
section
/-! SUPPORT. The operand operations: what a field write can do, what it leaves alone, and when it
completes. -/

namespace Sys2Proof.Machine.State

/-- What a field write answers: the byte at the field's index with the field's bits replaced, and nothing
else of the state (10_state.md R19). -/
theorem fieldWrite_cases {s s' : State} {S : FrameSpace} {f : Field} {v : Nat}
    (h : s.fieldWrite S f v = some s') :
    ∃ b, s.memRead S f.pos = some b ∧ s.memWrite S f.pos (f.insert b v) = some s' := by
  unfold fieldWrite at h
  split at h
  · next b hb => exact ⟨b, hb, h⟩
  · cases h

theorem exists_fieldWrite (s : State) {S : FrameSpace} {f : Field} (v : Nat)
    (h : 1 ≤ f.pos ∧ f.pos ≤ (s.template S).length) :
    ∃ b s', s.memRead S f.pos = some b ∧ s.memWrite S f.pos (f.insert b v) = some s' ∧
      s.fieldWrite S f v = some s' := by
  obtain ⟨b, hb⟩ := exists_memRead s h
  obtain ⟨s', hs⟩ := exists_memWrite s (f.insert b v) h
  exact ⟨b, s', hb, hs, by simp [fieldWrite, hb, hs]⟩

/-- Every field of an admitted table can be written. -/
theorem admitted_fieldWrite (s : State) (hp : s.params.admitted = true) {f : Field}
    (hf : f ∈ s.params.vt.fields) (v : Nat) :
    ∃ b s', s.memRead .fn f.pos = some b ∧ s.memWrite .fn f.pos (f.insert b v) = some s' ∧
      s.fieldWrite .fn f v = some s' :=
  exists_fieldWrite s v (Params.admitted_field hp hf).1

theorem fieldWrite_eq {s s' : State} {S : FrameSpace} {f : Field} {v : Nat}
    (h : s.fieldWrite S f v = some s') : s' = { s with fn := s'.fn, ff := s'.ff } := by
  obtain ⟨b, -, hw⟩ := fieldWrite_cases h
  exact memWrite_eq hw

/-- A fitting value is read back from its field. -/
theorem fieldRead_fieldWrite_self {s s' : State} {S : FrameSpace} {f : Field} {v : Nat}
    (h : s.fieldWrite S f v = some s') (hv : f.fits v = true) : s'.fieldRead S f = some v := by
  obtain ⟨b, -, hw⟩ := fieldWrite_cases h
  simp [fieldRead, memRead_memWrite_self hw, Field.extract_insert b hv]

/-- A disjoint field reads as before. -/
theorem fieldRead_fieldWrite_of_disjoint {s s' : State} {S : FrameSpace} {f g : Field} {v : Nat}
    (h : s.fieldWrite S f v = some s') (hd : f.Disjoint g) : s'.fieldRead S g = s.fieldRead S g := by
  obtain ⟨b, hb, hw⟩ := fieldWrite_cases h
  by_cases hp : g.pos = f.pos
  · have hm : f.mask &&& g.mask = 0#8 := hd.resolve_left (fun h => h hp.symm)
    simp [fieldRead, hp, hb, memRead_memWrite_self hw, Field.extract_insert_of_disjoint b v hm]
  · simp only [fieldRead]
    rw [memRead_memWrite_ne hw (fun h => hp h.2)]

/-- The clamped temperature lies within the bounds. -/
theorem clampTemp_bounds (s : State) (hp : s.params.admitted = true) (t : Int) :
    s.params.vt.tempMin ≤ s.clampTemp t ∧ s.clampTemp t ≤ s.params.vt.tempMax := by
  have := Params.admitted_bounds hp
  simp only [clampTemp, clamp]
  omega

/-- A power write completes on admitted parameters and changes the frame buffer alone. -/
theorem admitted_writePower (s : State) (hp : s.params.admitted = true) (value : PowerField → Nat) :
    ∃ s', s.writePower value = some s' ∧ s' = { s with fn := s'.fn, ff := s'.ff } := by
  unfold writePower
  split
  · next pf hpf =>
    obtain ⟨b, s', -, -, h⟩ := admitted_fieldWrite s hp (VendorTable.fldPower_mem _ hpf) (value pf)
    exact ⟨s', h, fieldWrite_eq h⟩
  · exact ⟨s, rfl, rfl⟩

end Sys2Proof.Machine.State
end

