-- ==== Sys2Proof/Laws/Commands.lean ====
section
/-! SUPPORT. What each command can do, said once: if a meaning answers a next state, that state is one of
those named here. -/

namespace Sys2Proof.Machine

@[simp] theorem nextOrNoBlock_some (s : State) : nextOrNoBlock (some s) = .next s := rfl

theorem nextOrNoBlock_next {o : Option State} {s : State} (h : nextOrNoBlock o = .next s) : o = some s := by
  cases o <;> simp_all [nextOrNoBlock]

/-- SET_TEMP (40_protocol_state.md R66). -/
theorem execSetTemp_cases {t : Int} {s s' : State} (h : execSetTemp t s = .next s') :
    ∃ e s₁, encodeTemp s.params.vt.encTemp (s.clampTemp t) = some e ∧
      s.fieldWrite .fn s.params.vt.fldTemp e = some s₁ ∧
      s' = { s₁ with temp := s.clampTemp t }.respond (.temp (s.clampTemp t)) := by
  have := nextOrNoBlock_next h
  simp only [bind, Option.bind_eq_some_iff] at this
  obtain ⟨e, he, s₁, hs, hr⟩ := this
  exact ⟨e, s₁, he, hs, (Option.some.inj hr).symm⟩

/-- The option setters (40_protocol_state.md R67, R68, R69). -/
theorem setOption_cases {m : List (Nat × Nat)} {f : Field} {nid : Nat} {store : State → Nat → State}
    {s s' : State} (h : setOption m f nid store s = .next s') :
    (lookupCode m nid = none ∧ s' = s.raise (.validation nid)) ∨
    ∃ c s₁, lookupCode m nid = some c ∧ s.fieldWrite .fn f c = some s₁ ∧
      s' = (store s₁ c).respond (.name nid) := by
  unfold setOption at h
  split at h
  · next hl => exact .inl ⟨hl, by simpa using h.symm⟩
  · next c hl =>
    have := nextOrNoBlock_next h
    simp only [Option.map_eq_some_iff] at this
    obtain ⟨s₁, hs, hr⟩ := this
    exact .inr ⟨c, s₁, hl, hs, hr.symm⟩

/-- TURN_ON (40_protocol_state.md R70). -/
theorem execTurnOn_cases {s s' : State} (h : execTurnOn s = .next s') :
    ∃ s₁, s.writePower (·.pwrOn) = some s₁ ∧ s' = { s₁ with variant := .normal }.respond .unit := by
  have := nextOrNoBlock_next h
  simp only [Option.map_eq_some_iff] at this
  obtain ⟨s₁, hs, hr⟩ := this
  exact ⟨s₁, hs, hr.symm⟩

/-- TURN_OFF (40_protocol_state.md R71). -/
theorem execTurnOff_cases {s s' : State} (h : execTurnOff s = .next s') :
    ∃ s₁, s.writePower (·.pwrOff) = some s₁ ∧ s' = { s₁ with variant := offVariant s }.respond .unit := by
  have := nextOrNoBlock_next h
  simp only [Option.map_eq_some_iff] at this
  obtain ⟨s₁, hs, hr⟩ := this
  exact ⟨s₁, hs, hr.symm⟩

/-- READ_BYTE (40_protocol_state.md R72). -/
theorem execReadByte_cases (n : Nat) (s : State) :
    (∃ b, s.activeByte n = some b ∧ execReadByte n s = .next (s.respond (.byte b))) ∨
    (s.activeByte n = none ∧ execReadByte n s = .next (s.raise (.index n))) := by
  cases h : s.activeByte n with
  | some b => exact .inl ⟨b, rfl, by simp [execReadByte, h]⟩
  | none => exact .inr ⟨rfl, by simp [execReadByte, h]⟩

/-- WRITE_BYTE (40_protocol_state.md R73). -/
theorem execWriteByte_cases (v : Byte) (n : Nat) (s : State) :
    (∃ s₁, s.memWrite s.activeSpace n v = some s₁ ∧ execWriteByte v n s = .next (s₁.respond .unit)) ∨
    (s.memWrite s.activeSpace n v = none ∧ execWriteByte v n s = .next (s.raise (.index n))) := by
  cases h : s.memWrite s.activeSpace n v with
  | some s₁ => exact .inl ⟨s₁, rfl, by simp [execWriteByte, h]⟩
  | none => exact .inr ⟨rfl, by simp [execWriteByte, h]⟩

/-- What the checksum stage does (41_checksum.md R79): a byte of ACT and CKSKIP, or CKSKIP alone. -/
theorem writeChecksum_cases {s s' : State} (h : s.writeChecksum = some s') :
    (∃ c s₁, s.activeChecksum = some c ∧ s.memWrite s.activeSpace s.params.vt.ckPos c = some s₁ ∧
      s' = { s₁ with ckskip := false }) ∨
    (s.activeChecksum = none ∧ s' = { s with ckskip := true }) := by
  unfold State.writeChecksum at h
  split at h
  · next c hc =>
    simp only [Option.map_eq_some_iff] at h
    obtain ⟨s₁, hs, hr⟩ := h
    exact .inl ⟨c, s₁, hc, hs, hr.symm⟩
  · next hc => exact .inr ⟨hc, (Option.some.inj h).symm⟩

/-- SEND_WAVE (45_transmission_driver.md R104). -/
theorem execSendWave_cases {s s' : State} (h : execSendWave s = .next s') :
    (s.phase.inFlight = true ∧ s' = s.raise .busy) ∨
    (s.phase.inFlight = false ∧ ∃ s₁, s.writeChecksum = some s₁ ∧
      s' = s₁.loadRun.startRun.respond .accepted) := by
  unfold execSendWave at h
  split at h
  · next hb => exact .inl ⟨hb, by simpa using h.symm⟩
  · next hb =>
    have := nextOrNoBlock_next h
    simp only [Option.map_eq_some_iff] at this
    obtain ⟨s₁, hs, hr⟩ := this
    exact .inr ⟨by simpa using hb, s₁, hs, hr.symm⟩

/-- The issue step of a phase (45_transmission_driver.md R106). -/
theorem issueIn_next_iff {ph : Phase} {c : Outbound} {s s' : State} :
    issueIn ph c s = .next s' ↔ (s.phase = ph ∧ s.await = false) ∧ s' = s.issue c := by
  unfold issueIn
  split
  · next h => simp [h, eq_comm]
  · next h => simp [h]

/-- What a command can do to the state (40_protocol_state.md R74, 45_transmission_driver.md R104, R106):
an inbound one adds a response; a setter, a power command or an accessor writes settings and frames
alone; SEND_WAVE starts a run; an outbound one is issued in its phase. -/
theorem exec_cases {i : Instr} {s s' : State} (h : exec i s = .next s') :
    (∃ r, s' = { s with temp := s'.temp, fan := s'.fan, mode := s'.mode, swing := s'.swing,
                        variant := s'.variant, fn := s'.fn, ff := s'.ff,
                        responses := s.responses ++ [r] } ∧ r ≠ .ok .accepted ∧ i.inbound = true) ∨
    (i = .sendWave ∧ s.phase.inFlight = false ∧
      ∃ s₁, s.writeChecksum = some s₁ ∧ s' = s₁.loadRun.startRun.respond .accepted) ∨
    (∃ c, s.phase.command = some i ∧ s.await = false ∧ s.phase.tag = some c.tag ∧ s' = s.issue c ∧
      i.inbound = false) := by
  have hopt : ∀ {m f nid} {store : State → Nat → State} {s₂ : State},
      (∀ t c, store t c = { t with fan := (store t c).fan, mode := (store t c).mode, swing := (store t c).swing }) →
      setOption m f nid store s = .next s₂ →
      ∃ r, s₂ = { s with temp := s₂.temp, fan := s₂.fan, mode := s₂.mode, swing := s₂.swing, variant := s₂.variant, fn := s₂.fn, ff := s₂.ff, responses := s.responses ++ [r] } ∧ r ≠ .ok .accepted := by
    intro m f nid store s₂ hst h
    obtain ⟨-, rfl⟩ | ⟨c, s₁, -, hw, rfl⟩ := setOption_cases h
    · exact ⟨_, rfl, by simp⟩
    · refine ⟨.ok (.name nid), ?_, by simp⟩
      rw [hst s₁ c, State.fieldWrite_eq hw]
      rfl
  cases i with
  | setTemp t =>
    obtain ⟨e, s₁, -, hw, rfl⟩ := execSetTemp_cases h
    refine .inl ⟨.ok (.temp (s.clampTemp t)), ?_, by simp, rfl⟩
    rw [State.fieldWrite_eq hw]
    rfl
  | setFan nid => exact .inl ((hopt (fun _ _ => rfl) h).imp fun r hr => ⟨hr.1, hr.2, rfl⟩)
  | setMode nid => exact .inl ((hopt (fun _ _ => rfl) h).imp fun r hr => ⟨hr.1, hr.2, rfl⟩)
  | setSwing nid => exact .inl ((hopt (fun _ _ => rfl) h).imp fun r hr => ⟨hr.1, hr.2, rfl⟩)
  | turnOn =>
    obtain ⟨s₁, hw, rfl⟩ := execTurnOn_cases h
    refine .inl ⟨.ok .unit, ?_, by simp, rfl⟩
    have : s₁ = { s with fn := s₁.fn, ff := s₁.ff } := by
      unfold State.writePower at hw
      split at hw
      · exact State.fieldWrite_eq hw
      · cases hw; rfl
    rw [this]
    rfl
  | turnOff =>
    obtain ⟨s₁, hw, rfl⟩ := execTurnOff_cases h
    refine .inl ⟨.ok .unit, ?_, by simp, rfl⟩
    have : s₁ = { s with fn := s₁.fn, ff := s₁.ff } := by
      unfold State.writePower at hw
      split at hw
      · exact State.fieldWrite_eq hw
      · cases hw; rfl
    rw [this]
    rfl
  | sendWave =>
    obtain ⟨-, rfl⟩ | ⟨hb, s₁, hc, rfl⟩ := execSendWave_cases h
    · exact .inl ⟨_, rfl, by simp, rfl⟩
    · exact .inr (.inl ⟨rfl, hb, s₁, hc, rfl⟩)
  | readByte n =>
    obtain ⟨b, -, hr⟩ | ⟨-, hr⟩ := execReadByte_cases n s <;>
    · have h' := hr.symm.trans h
      cases h'
      exact .inl ⟨_, rfl, by simp, rfl⟩
  | writeByte v n =>
    obtain ⟨s₁, hw, hr⟩ | ⟨-, hr⟩ := execWriteByte_cases v n s
    · have h' := hr.symm.trans h
      cases h'
      refine .inl ⟨.ok .unit, ?_, by simp, rfl⟩
      rw [State.memWrite_eq hw]
      rfl
    · have h' := hr.symm.trans h
      cases h'
      exact .inl ⟨_, rfl, by simp, rfl⟩
  | modeSet =>
    obtain ⟨⟨hp, ha⟩, rfl⟩ := issueIn_next_iff.mp h
    exact .inr (.inr ⟨_, by rw [hp]; rfl, ha, by rw [hp]; rfl, rfl, rfl⟩)
  | waveClear =>
    obtain ⟨⟨hp, ha⟩, rfl⟩ := issueIn_next_iff.mp h
    exact .inr (.inr ⟨_, by rw [hp]; rfl, ha, by rw [hp]; rfl, rfl, rfl⟩)
  | waveAddPulse =>
    obtain ⟨⟨hp, ha⟩, rfl⟩ := issueIn_next_iff.mp h
    exact .inr (.inr ⟨_, by rw [hp]; rfl, ha, by rw [hp]; rfl, rfl, rfl⟩)
  | waveCreate =>
    obtain ⟨⟨hp, ha⟩, rfl⟩ := issueIn_next_iff.mp h
    exact .inr (.inr ⟨_, by rw [hp]; rfl, ha, by rw [hp]; rfl, rfl, rfl⟩)
  | waveChainTx =>
    obtain ⟨⟨hp, ha⟩, rfl⟩ := issueIn_next_iff.mp h
    exact .inr (.inr ⟨_, by rw [hp]; rfl, ha, by rw [hp]; rfl, rfl, rfl⟩)
  | write =>
    obtain ⟨⟨hp, ha⟩, rfl⟩ := issueIn_next_iff.mp h
    exact .inr (.inr ⟨_, by rw [hp]; rfl, ha, by rw [hp]; rfl, rfl, rfl⟩)

/-- What a completion can do (45_transmission_driver.md R107, R108, R110 to R115). -/
theorem completed_cases {c : Completion} {s s' : State} (h : s.completed c = some s') :
    (∃ err tag, c = .fail err ∧ s.phase.tag = some tag ∧
      s' = (s.landed (.cmplFail err)).failRun (.hw tag err)) ∨
    (∃ k, c = .ok (.handle k) ∧ s.phase = .create ∧
      s' = (s.landed (.cmplOk (.handle k))).waveCreateDone k) ∨
    (c = .ok .unit ∧
      ((s.phase = .modeset ∧ s' = (s.landed (.cmplOk .unit)).modeSetDone) ∨
       (s.phase = .clear ∧ s' = (s.landed (.cmplOk .unit)).waveClearDone) ∨
       (s.phase = .add ∧ s' = (s.landed (.cmplOk .unit)).waveAddPulseDone) ∨
       (s.phase = .chain ∧ s' = (s.landed (.cmplOk .unit)).waveChainTxDone) ∨
       (s.phase = .deact ∧ s' = (s.landed (.cmplOk .unit)).writeDone))) := by
  cases c with
  | fail err =>
    simp only [State.completed] at h
    split at h
    · next tag ht => exact .inl ⟨err, tag, rfl, ht, (Option.some.inj h).symm⟩
    · cases h
  | ok v =>
    cases v <;> cases hp : s.phase <;> simp_all [State.completed, State.succeed]

/-- When a completion lands (45_transmission_driver.md R107). -/
theorem complete_next_iff {c : Completion} {s s' : State} :
    complete c s = .next s' ↔ s.await = true ∧ s.completed c = some s' := by
  unfold complete
  cases s.await <;> cases h : s.completed c <;> simp

end Sys2Proof.Machine
end

