-- ==== Sys2Proof/Laws/Decode.lean ====
section
/-! SUPPORT. The fields of a command word: what the decoder cuts out of a word the encoder put together, and
back (30_encoding.md R50). -/

namespace Sys2Proof

theorem extract_high {n m : Nat} (x : BitVec n) (y : BitVec m) : (x ++ y).extractLsb' m n = x := by
  ext j hj
  simp [BitVec.getLsbD_append, BitVec.getLsbD_eq_getElem hj]

theorem extract_low {n m : Nat} (x : BitVec n) (y : BitVec m) : (x ++ y).extractLsb' 0 m = y := by
  ext j hj
  simp [BitVec.getLsbD_append, hj]

theorem append_extract {n m : Nat} (w : BitVec (n + m)) : w.extractLsb' m n ++ w.extractLsb' 0 m = w := by
  ext j hj
  simp only [BitVec.getElem_append, BitVec.getElem_extractLsb']
  split
  · simp [BitVec.getLsbD_eq_getElem hj]
  · have : m + (j - m) = j := by omega
    simp [this, BitVec.getLsbD_eq_getElem hj]

@[simp] theorem operand_commandWord (opd : BitVec 24) (opc : Byte) : operand (commandWord opd opc) = opd :=
  extract_high opd opc

@[simp] theorem opcode_commandWord (opd : BitVec 24) (opc : Byte) : opcode (commandWord opd opc) = opc :=
  extract_low opd opc

/-- A word is its operand and its opcode. -/
theorem commandWord_operand_opcode (w : Word) : commandWord (operand w) (opcode w) = w :=
  append_extract (n := 24) (m := 8) w

/-- A part of the word above the opcode is that part of the operand. -/
theorem extract_word (w : Word) (k n : Nat) (h : k + n ≤ 24) :
    w.extractLsb' (8 + k) n = (operand w).extractLsb' k n := by
  ext j hj
  have hk : k + j < 24 := by omega
  simp [operand, BitVec.getElem_extractLsb', hk, Nat.add_assoc]

end Sys2Proof
end

