-- ==== Sys2Proof/Laws/Step.lean ====
section
/-! SUPPORT. What a step can do, said once. -/

namespace Sys2Proof.Machine

/-- A step's move is taken from the schedule, or is the sequencer's when the schedule is empty. -/
def State.Taken (s s₀ : State) : Prop :=
  (s.pending = [] ∧ s₀ = s) ∨ ∃ m rest, s.pending = m :: rest ∧ s₀ = { s with pending := rest }

/-- The state the move starts from differs in the schedule alone. -/
theorem State.Taken.eq {s s₀ : State} (h : s.Taken s₀) : s₀ = { s with pending := s₀.pending } := by
  rcases h with ⟨-, rfl⟩ | ⟨m, rest, -, rfl⟩ <;> rfl

/-- What the sequencer's turn can be (45_transmission_driver.md R106, R109). -/
theorem sequencerTurn_cases (s : State) :
    (s.phase = .waitReady ∧ sequencerTurn s = .other (.next s.leaveWaitReady)) ∨
    (sequencerTurn s = .other (.next s)) ∨
    (∃ i, s.phase.command = some i ∧ s.await = false ∧ sequencerTurn s = .command i s) := by
  unfold sequencerTurn
  split
  · next h => exact .inl ⟨h, rfl⟩
  · split
    · exact .inr (.inl rfl)
    · next ha =>
      split
      · next i hi => exact .inr (.inr ⟨i, hi, by simpa using ha, rfl⟩)
      · exact .inr (.inl rfl)

@[simp] theorem Fetched.run_command (i : Instr) (s : State) : (Fetched.command i s).run = exec i s := rfl
@[simp] theorem Fetched.run_other (r : Result) : (Fetched.other r).run = r := rfl

/-- With nothing scheduled, a step of a block that exists is the sequencer's turn. -/
theorem step_nil {s : State} (hp : s.params.admitted = true) (h : s.pending = []) :
    step s = (sequencerTurn s).run := by
  simp only [step, fetch, built, h, if_pos hp]

/-- A step of a block that exists takes the move at the head of the schedule. -/
theorem step_cons {s : State} {m : Move} {rest : List Move} (hp : s.params.admitted = true)
    (h : s.pending = m :: rest) : step s = (takeMove m { s with pending := rest }).run := by
  simp only [step, fetch, built, h, if_pos hp]

/-- Parameters that build no block are refused whatever is scheduled. -/
theorem step_unbuilt {s : State} (hp : s.params.admitted ≠ true) : step s = .refused .noBlock := by
  unfold step fetch built
  cases h : s.pending <;> simp only [if_neg hp] <;> rfl

/-- What a step that answers a next state does: it takes a move, and that move is a command, an illegal
word, the WAIT_READY step, a notification, a completion, or a turn with no step. -/
theorem step_cases {s s' : State} (h : step s = .next s') :
    s.params.admitted = true ∧ ∃ s₀, s.Taken s₀ ∧
      ((∃ w rest i, s.pending = .host w :: rest ∧ decodeWord w = .ok i ∧ exec i s₀ = .next s') ∨
       (∃ w rest err, s.pending = .host w :: rest ∧ decodeWord w = .error err ∧ s' = s₀.raise (.illegal w)) ∨
       (s.phase = .waitReady ∧ s' = s₀.leaveWaitReady) ∨
       (∃ i, s.phase.command = some i ∧ s.await = false ∧ exec i s₀ = .next s') ∨
       (s' = s₀) ∨
       (∃ rest, s.pending = .readiness :: rest ∧ s' = s₀.notifyReady) ∨
       (∃ c rest, s.pending = .complete c :: rest ∧ s.await = true ∧ s₀.completed c = some s')) := by
  by_cases hp : s.params.admitted = true
  · refine ⟨hp, ?_⟩
    have turn : ∀ s₀, s₀.phase = s.phase → s₀.await = s.await →
        (sequencerTurn s₀).run = .next s' →
        (s.phase = .waitReady ∧ s' = s₀.leaveWaitReady) ∨
        (∃ i, s.phase.command = some i ∧ s.await = false ∧ exec i s₀ = .next s') ∨ s' = s₀ := by
      intro s₀ hph haw hs
      obtain ⟨hw, he⟩ | he | ⟨i, hi, ha, he⟩ := sequencerTurn_cases s₀ <;> rw [he] at hs
      · exact .inl ⟨hph ▸ hw, by simpa using hs.symm⟩
      · exact .inr (.inr (by simpa using hs.symm))
      · exact .inr (.inl ⟨i, hph ▸ hi, haw ▸ ha, hs⟩)
    cases hpend : s.pending with
    | nil =>
      rw [step_nil hp hpend] at h
      have ht : s.Taken s := .inl ⟨hpend, rfl⟩
      refine ⟨s, ht, ?_⟩
      rcases turn s rfl rfl h with h | h | h
      · exact .inr (.inr (.inl h))
      · exact .inr (.inr (.inr (.inl h)))
      · exact .inr (.inr (.inr (.inr (.inl h))))
    | cons m rest =>
      rw [step_cons hp hpend] at h
      have ht : s.Taken { s with pending := rest } := .inr ⟨m, rest, hpend, rfl⟩
      refine ⟨_, ht, ?_⟩
      cases m with
      | host w =>
        simp only [takeMove, commandTurn] at h
        cases hd : decodeWord w with
        | ok i => rw [hd] at h; exact .inl ⟨w, rest, i, rfl, hd, h⟩
        | error err => rw [hd] at h; exact .inr (.inl ⟨w, rest, err, rfl, hd, by simpa using h.symm⟩)
      | sequencer =>
        rcases turn { s with pending := rest } rfl rfl h with h | h | h
        · exact .inr (.inr (.inl h))
        · exact .inr (.inr (.inr (.inl h)))
        · exact .inr (.inr (.inr (.inr (.inl h))))
      | readiness => exact .inr (.inr (.inr (.inr (.inr (.inl ⟨rest, rfl, by simpa [takeMove] using h.symm⟩)))))
      | reconnect => exact .inr (.inr (.inr (.inr (.inl (by simpa [takeMove, State.notifyReconnect] using h.symm)))))
      | complete c =>
        have hc := complete_next_iff.mp h
        exact .inr (.inr (.inr (.inr (.inr (.inr ⟨c, rest, rfl, hc.1, hc.2⟩)))))
  · rw [step_unbuilt hp] at h
    cases h

end Sys2Proof.Machine
end

