-- ==== Sys2Proof/Laws/Driver.lean ====
section
/-! SUPPORT. The driver's shared operations: when the checksum stage completes, what it leaves alone, the
issue step of a phase, and the counts of a trace (45_transmission_driver.md R104 to R106, R116). -/

namespace Sys2Proof.Machine

/-- The checksum stage always completes on admitted parameters (41_checksum.md R79). -/
theorem exists_writeChecksum (s : State) (hp : s.params.admitted = true) :
    ∃ s₁, s.writeChecksum = some s₁ := by
  unfold State.writeChecksum
  cases hc : s.activeChecksum with
  | none => exact ⟨_, rfl⟩
  | some c =>
    have hlen : (s.frame s.activeSpace).length = s.params.vt.ckLen := by
      by_contra h
      unfold State.activeChecksum checksum at hc
      rw [if_pos h] at hc
      cases hc
    obtain ⟨-, -, -, -, h₁, h₂, -⟩ := Params.admitted_checksum hp
    obtain ⟨s₁, hs⟩ := State.exists_memWrite s c (S := s.activeSpace) (n := s.params.vt.ckPos)
      (by rw [State.frame_length] at hlen; omega)
    simp only [hs]
    exact ⟨_, rfl⟩

/-- The checksum stage changes a frame buffer and CKSKIP alone. -/
theorem writeChecksum_eq {s s₁ : State} (h : s.writeChecksum = some s₁) :
    s₁ = { s with fn := s₁.fn, ff := s₁.ff, ckskip := s₁.ckskip } := by
  obtain ⟨c, s₂, -, hm, rfl⟩ | ⟨-, rfl⟩ := writeChecksum_cases h
  · rw [State.memWrite_eq hm]
  · rfl

/-- A phase's command has its issue step there while nothing is outstanding (R106). -/
theorem exists_issue {s : State} {i : Instr} (hc : s.phase.command = some i) (ha : s.await = false) :
    ∃ c, exec i s = .next (s.issue c) ∧ s.phase.tag = some c.tag := by
  cases hp : s.phase <;> rw [hp] at hc <;> cases hc
  · exact ⟨_, if_pos ⟨hp, ha⟩, rfl⟩
  · exact ⟨_, if_pos ⟨hp, ha⟩, rfl⟩
  · exact ⟨_, if_pos ⟨hp, ha⟩, rfl⟩
  · exact ⟨_, if_pos ⟨hp, ha⟩, rfl⟩
  · exact ⟨_, if_pos ⟨hp, ha⟩, rfl⟩
  · exact ⟨_, if_pos ⟨hp, ha⟩, rfl⟩

@[simp] theorem issuesOf_append (a b : List Event) : issuesOf (a ++ b) = issuesOf a ++ issuesOf b := by
  induction a with
  | nil => rfl
  | cons e a ih => cases e <;> simp [issuesOf, ih]

@[simp] theorem completionCount_append (a b : List Event) :
    completionCount (a ++ b) = completionCount a + completionCount b := by
  induction a with
  | nil => simp [completionCount]
  | cons e a ih => cases e <;> simp [completionCount, ih]; all_goals omega

@[simp] theorem doneCount_append (a b : List Event) : doneCount (a ++ b) = doneCount a + doneCount b := by
  induction a with
  | nil => simp [doneCount]
  | cons e a ih => cases e <;> simp [doneCount, ih]; all_goals omega

theorem acceptedCount_append (rs : List Response) (r : Response) :
    acceptedCount (rs ++ [r]) = acceptedCount rs + if r = .ok .accepted then 1 else 0 := by
  simp [acceptedCount, List.countP_cons]

@[simp] theorem chunkCommands_length (chunkSize : Nat) (wave : List Pulse) (k : Nat) :
    (chunkCommands chunkSize wave k).length = 2 * k := by
  simp [chunkCommands, List.length_flatMap]
  omega

end Sys2Proof.Machine
end

