-- ==== Sys2Proof/Laws/PerInstr.lean ====
section
/-! SUPPORT. One family of statements, one lemma a command: its code matches its row of
spec/opcode_table.json under the row's mask (30_encoding.md R51, R63). -/

namespace Sys2Proof.Laws.OpcodeRow

/-- A command word matches a row's bits under its mask. -/
def MatchesWord (mask bits : Word) : Code → Prop
  | .cmd32 w => w &&& mask = bits
  | .out8 _ => False

/-- A tag is the row's. -/
def MatchesTag (bits : Byte) : Code → Prop
  | .cmd32 _ => False
  | .out8 tag => tag = bits

/-- The code of a command matches its row of the opcode table. -/
def Statement (i : Instr) : Prop :=
  match i with
  | .setTemp _ => MatchesWord 0x000000FF#32 0x00000001#32 (encode i)
  | .setFan _ => MatchesWord 0x000000FF#32 0x00000002#32 (encode i)
  | .setMode _ => MatchesWord 0x000000FF#32 0x00000003#32 (encode i)
  | .setSwing _ => MatchesWord 0x000000FF#32 0x00000004#32 (encode i)
  | .turnOn => MatchesWord 0xFFFFFFFF#32 0x00000005#32 (encode i)
  | .turnOff => MatchesWord 0xFFFFFFFF#32 0x00000006#32 (encode i)
  | .sendWave => MatchesWord 0xFFFFFFFF#32 0x00000007#32 (encode i)
  | .readByte _ => MatchesWord 0xFFFF00FF#32 0x00000008#32 (encode i)
  | .writeByte _ _ => MatchesWord 0xFF0000FF#32 0x00000009#32 (encode i)
  | .modeSet => MatchesTag 0x80#8 (encode i)
  | .waveClear => MatchesTag 0x81#8 (encode i)
  | .waveAddPulse => MatchesTag 0x82#8 (encode i)
  | .waveCreate => MatchesTag 0x83#8 (encode i)
  | .waveChainTx => MatchesTag 0x84#8 (encode i)
  | .write => MatchesTag 0x85#8 (encode i)

theorem and_append {n m : Nat} (x a : BitVec n) (y b : BitVec m) :
    (x ++ y) &&& (a ++ b) = (x &&& a) ++ (y &&& b) := by
  ext j hj
  simp only [BitVec.getElem_and, BitVec.getElem_append]
  split <;> rfl

/-- A mask over the opcode alone leaves the opcode. -/
theorem commandWord_and_opcode (opd : BitVec 24) (opc : Byte) :
    commandWord opd opc &&& (0#24 ++ 0xFF#8) = 0#24 ++ opc := by
  rw [commandWord, and_append, BitVec.and_zero, show (0xFF#8 : Byte) = BitVec.allOnes 8 from rfl,
    BitVec.and_allOnes]

theorem setTemp (t : Int) : Statement (.setTemp t) := commandWord_and_opcode _ _
theorem setFan (nid : Nat) : Statement (.setFan nid) := commandWord_and_opcode _ _
theorem setMode (nid : Nat) : Statement (.setMode nid) := commandWord_and_opcode _ _
theorem setSwing (nid : Nat) : Statement (.setSwing nid) := commandWord_and_opcode _ _
theorem turnOn : Statement .turnOn := rfl
theorem turnOff : Statement .turnOff := rfl
theorem sendWave : Statement .sendWave := rfl

theorem readByte (n : Nat) : Statement (.readByte n) := by
  show commandWord (0#16 ++ BitVec.ofNat 8 n) 0x08#8 &&& ((0xFFFF#16 ++ 0x00#8) ++ 0xFF#8) = _
  rw [commandWord, and_append, and_append, BitVec.and_zero]
  rfl

theorem writeByte (v : Byte) (n : Nat) : Statement (.writeByte v n) := by
  show commandWord (0#8 ++ v ++ BitVec.ofNat 8 n) 0x09#8 &&& (((0xFF#8 ++ 0x00#8) ++ 0x00#8) ++ 0xFF#8) = _
  rw [commandWord, and_append, and_append, and_append, BitVec.and_zero, BitVec.and_zero]
  rfl

theorem modeSet : Statement .modeSet := rfl
theorem waveClear : Statement .waveClear := rfl
theorem waveAddPulse : Statement .waveAddPulse := rfl
theorem waveCreate : Statement .waveCreate := rfl
theorem waveChainTx : Statement .waveChainTx := rfl
theorem write : Statement .write := rfl

end Sys2Proof.Laws.OpcodeRow
end

