-- ==== Sys2Proof/Laws/Signal.lean ====
section
/-! SUPPORT. The parts of a pulse train and of a wave: their lengths and what stands where
(42_pulse_train.md R83, 43_carrier_modulator.md R93, 44_wave_assembler.md R97). -/

namespace Sys2Proof.Machine

/-- Eight bits, each with its gap. -/
@[simp] theorem encodeByte_length (vt : VendorTable) (b : Byte) : (encodeByte vt b).length = 16 := by
  simp [encodeByte, List.range_succ]

@[simp] theorem modulate_length (p : Params) (d : Nat) : (modulate p d).length = carrierCount p d := by
  simp [modulate]

theorem modulate_getElem? (p : Params) {d k : Nat} (h : k < carrierCount p d) :
    (modulate p d)[k]? = some (halfCycle p k) := by
  simp [modulate, h]

@[simp] theorem waveTail_length (p : Params) : (waveTail p).length = 2 := rfl

/-- A mark followed by a space assembles to a burst and one OFF instruction. -/
theorem assembleFrom_mark_space (p : Params) (m s : Nat) (rest : List Nat) :
    assembleFrom p true (m :: s :: rest) = modulate p m ++ pulseOff p s :: assembleFrom p true rest := rfl

/-- A space followed by a mark assembles to one OFF instruction and a burst. -/
theorem assembleFrom_space_mark (p : Params) (s m : Nat) (rest : List Nat) :
    assembleFrom p false (s :: m :: rest) = pulseOff p s :: (modulate p m ++ assembleFrom p false rest) := rfl

/-- Every wave ends with the terminal instructions. -/
theorem waveTail_suffix (p : Params) (train : List Nat) : waveTail p <:+ assemble p train := ⟨_, rfl⟩

end Sys2Proof.Machine
end

