-- ==== Sys2Proof/Tests/Slice0.lean ====
section
/-! SUPPORT. Tests: ill-formed terms, words written out from the spec's encodings, the vectors of
95_test_vectors.md, and for every obligation with hypotheses a state and operands that meet them. -/

namespace Sys2Proof.Machine.Tests

open Sys2Proof Sys2Proof.Machine

-- ### Ill-formed commands (30_encoding.md R52, R53, R54): one for each check

theorem test_wf_setTemp_above : (Instr.setTemp 8388608).wf = false := by decide
theorem test_wf_setTemp_below : (Instr.setTemp (-8388609)).wf = false := by decide
theorem test_wf_setFan : (Instr.setFan 16777216).wf = false := by decide
theorem test_wf_setMode : (Instr.setMode 16777216).wf = false := by decide
theorem test_wf_setSwing : (Instr.setSwing 16777216).wf = false := by decide
theorem test_wf_readByte : (Instr.readByte 256).wf = false := by decide
theorem test_wf_writeByte : (Instr.writeByte 0x5A#8 256).wf = false := by decide

-- ### Parameters that build no block (10_state.md R20, 30_encoding.md R53, 93_implementation_defined.md I14)

/-- The fixture with another table. -/
def withTable (f : VendorTable → VendorTable) : Params := { fixtureParams with vt := f fixtureTable }

theorem test_fixture_admitted : fixtureParams.admitted = true := by decide
theorem test_check1 : (withTable fun v => { v with defaultTemp := 31 }).vt.checkBounds = false := by decide
theorem test_check2 : (withTable fun v => { v with frameOff := some [] }).vt.checkLengths = false := by decide
theorem test_check3 : (withTable fun v => { v with ckPos := 3 }).vt.checkChecksum = false := by decide
theorem test_check4 : (withTable fun v => { v with fldFan := ⟨3, 0x13#8, 0⟩ }).vt.checkFields = false := by decide
theorem test_check5 : (withTable fun v => { v with fanMap := [(0, 0), (3, 4)] }).vt.checkMaps = false := by decide
theorem test_check5_codes : (withTable fun v => { v with fanMap := [(0, 0), (3, 0)] }).vt.checkMaps = false := by
  decide
theorem test_check6 : (withTable fun v => { v with decTemp := [(0, 17)] }).vt.checkTemps = false := by decide
theorem test_check7 : (withTable fun v => { v with defaultFan := 6 }).vt.checkDefaults = false := by decide
theorem test_check8 : (withTable fun v => { v with defaultTemp := 23 }).vt.checkDefaults = false := by decide
theorem test_check9 :
    (withTable fun v => { v with frameOff := none, fldPower := none }).vt.checkPower = false := by decide
theorem test_check10 :
    (withTable fun v => { v with fldPower := some ⟨⟨2, 0x01#8, 0⟩, 1, 1⟩ }).vt.checkPower = false := by decide
theorem test_check11 : fixtureParams.checkKeys [(2, 0)] = false := by decide
theorem test_check12 : (withTable fun v => { v with tOne := 4294967296 }).vt.checkTimings = false := by decide
theorem test_names : { fixtureParams with names := ["AUTO", "OFF"] }.checkNames = false := by decide
theorem test_platform_chunk : { fixtureParams with chunkSize := 0 }.checkPlatform = false := by decide
theorem test_platform_pin : { fixtureParams with emitPin := 32 }.checkPlatform = false := by decide

-- ### Decoding: words of 95_test_vectors.md section 3.1

theorem test_decode_setTemp : decodeWord 0x00002301#32 = .ok (.setTemp 35) := by decide
theorem test_decode_setTemp_negative : decodeWord 0xFFFFFB01#32 = .ok (.setTemp (-5)) := by decide
theorem test_decode_setTemp_largest : decodeWord 0x7FFFFF01#32 = .ok (.setTemp 8388607) := by decide
theorem test_decode_setFan : decodeWord 0x00000302#32 = .ok (.setFan 3) := by decide
theorem test_decode_setFan_unknown : decodeWord 0xFFFFFF02#32 = .ok (.setFan 0xFFFFFF) := by decide
theorem test_decode_setMode : decodeWord 0x00000703#32 = .ok (.setMode 7) := by decide
theorem test_decode_setSwing : decodeWord 0x00000804#32 = .ok (.setSwing 8) := by decide
theorem test_decode_turnOn : decodeWord 0x00000005#32 = .ok .turnOn := by decide
theorem test_decode_turnOff : decodeWord 0x00000006#32 = .ok .turnOff := by decide
theorem test_decode_sendWave : decodeWord 0x00000007#32 = .ok .sendWave := by decide
theorem test_decode_readByte : decodeWord 0x00000208#32 = .ok (.readByte 2) := by decide
theorem test_decode_writeByte : decodeWord 0x005A0109#32 = .ok (.writeByte 0x5A#8 1) := by decide
theorem test_decode_turnOn_operand : decodeWord 0x00000105#32 = .error (.requiredZero 0x05#8) := by decide
theorem test_decode_readByte_operand : decodeWord 0x00010208#32 = .error (.requiredZero 0x08#8) := by decide
theorem test_decode_writeByte_operand : decodeWord 0x015A0109#32 = .error (.requiredZero 0x09#8) := by decide
theorem test_decode_zero : decodeWord 0x00000000#32 = .error (.reservedOpcode 0x00#8) := by decide
theorem test_decode_0A : decodeWord 0x0000000A#32 = .error (.reservedOpcode 0x0A#8) := by decide
theorem test_decode_FF : decodeWord 0x000000FF#32 = .error (.reservedOpcode 0xFF#8) := by decide

/-- The tags of 30_encoding.md R63, in order. -/
theorem test_decode_tags :
    [0x80#8, 0x81#8, 0x82#8, 0x83#8, 0x84#8, 0x85#8].map decodeTag =
      [.ok .modeSet, .ok .waveClear, .ok .waveAddPulse, .ok .waveCreate, .ok .waveChainTx, .ok .write] := by
  decide
theorem test_decode_tag_reserved : decodeTag 0x86#8 = .error (.reservedTag 0x86#8) := by decide

/-- Programs P1 and P4 of 95_test_vectors.md section 4. -/
theorem test_assemble :
    assembleLine fixtureParams.names (.setFan "HIGH") = some (.cmd32 0x00000302#32) ∧
    assembleLine fixtureParams.names (.writeByte 0x5A 0) = some (.cmd32 0x005A0009#32) ∧
    assembleLine fixtureParams.names (.setTemp 8388608) = none := by decide

-- ### One step of each command

/-- The state of an outcome that goes on. -/
def nextOf : Result → Option State
  | .next s => some s
  | .fault _ => none
  | .refused _ => none

/-- What one host word leaves, seen through a function. -/
def after {α : Type} (s : State) (w : Word) (f : State → α) : Option α :=
  (nextOf (step { s with pending := [.host w] })).map f

/-- The fixture after TURN_OFF (95_test_vectors.md V12). -/
def offState : State := { State.reset with variant := .off, fn := [(2, 0x60#8)] }

/-- V1. -/
theorem test_setTemp : after State.reset 0x00002301#32 (fun s => (s.temp, s.memRead .fn 2, s.responses)) =
    some (30, some 0xE1#8, [.ok (.temp 30)]) := by decide
/-- V15: the normal frame is written while the off frame is active. -/
theorem test_setTemp_off : after offState 0x00001901#32 (fun s => (s.frame .fn, s.frame .ff)) =
    some ([0x14#8, 0x90#8, 0x00#8, 0x8B#8], [0x14#8, 0x02#8]) := by decide
/-- V5. -/
theorem test_setFan : after State.reset 0x00000302#32 (fun s => (s.fan, s.memRead .fn 3, s.responses)) =
    some (1, some 0x01#8, [.ok (.name 3)]) := by decide
/-- V7: a key of MODE_MAP only. -/
theorem test_setFan_unknown : after State.reset 0x00000602#32 (fun s => (s.fan, s.fn, s.responses)) =
    some (0, [], [.fail (.validation 6)]) := by decide
/-- V9: the fan's bits are kept. -/
theorem test_setMode : after { State.reset with fan := 1, fn := [(3, 0x01#8)] } 0x00000703#32
    (fun s => (s.mode, s.memRead .fn 3)) = some (4, some 0x41#8) := by decide
/-- V10: the mode's bits are cleared. -/
theorem test_setMode_clears : after { State.reset with mode := 4, fn := [(3, 0x40#8)] } 0x00000003#32
    (fun s => (s.mode, s.fn)) = some (0, []) := by decide
/-- V11. -/
theorem test_setSwing : after State.reset 0x00000804#32 (fun s => (s.swing, s.memRead .fn 3)) =
    some (1, some 0x80#8) := by decide
/-- V13. -/
theorem test_turnOn : after offState 0x00000005#32 (fun s => (s.variant, s.memRead .fn 2, s.responses)) =
    some (.normal, some 0x61#8, [.ok .unit]) := by decide
/-- V12. -/
theorem test_turnOff : after State.reset 0x00000006#32 (fun s => (s.variant, s.memRead .fn 2, s.ff)) =
    some (.off, some 0x60#8, []) := by decide
/-- V18: the active frame is the off frame. -/
theorem test_readByte : after offState 0x00000208#32 (fun s => s.responses) =
    some [.ok (.byte 0x02#8)] := by decide
/-- V17. -/
theorem test_readByte_zero : after State.reset 0x00000008#32 (fun s => s.responses) =
    some [.fail (.index 0)] := by decide
/-- V19. -/
theorem test_writeByte : after State.reset 0x005A0109#32 (fun s => (s.frame .fn, s.temp)) =
    some ([0x5A#8, 0x61#8, 0x00#8, 0x8B#8], 22) := by decide
/-- V20. -/
theorem test_writeByte_off : after offState 0x00030209#32 (fun s => s.frame .ff) =
    some [0x14#8, 0x03#8] := by decide
/-- Program P2, step 1. -/
theorem test_sendWave : after { State.reset with fn := [(2, 0xE1#8), (3, 0x41#8)] } 0x00000007#32
    (fun s => (s.memRead .fn 4, s.ckskip, s.wave.length, s.nch, s.phase)) =
    some (some 0xCA#8, false, 1343, 14, .waitReady) := by decide +kernel
/-- D6 with P3's skipped checksum: no handle and a power-off frame of another length. -/
theorem test_sendWave_noHandle : after { offState with hwHandle := .absent } 0x00000007#32
    (fun s => (s.phase, s.result, s.trace, s.wave.length)) =
    some (.doneFail, .fail .noHandle, [.done (.fail .noHandle) true], 815) := by decide +kernel
/-- An illegal word (95_test_vectors.md P4). -/
theorem test_illegal : after State.reset 0x00000105#32 (fun s => s.responses) =
    some [.fail (.illegal 0x00000105#32)] := by decide

/-- A run of the fixture with a short wave in a phase. -/
def running (ph : Phase) (aw : Bool) (hs : List Nat) (sched : List Move) : State :=
  { State.reset with
    phase := ph, await := aw, ready := true, result := .pending,
    wave := waveTail fixtureParams, nch := 1, handles := hs, pending := sched }

/-- One step's new events, and the phase. -/
def events (s : State) : Option (List Event × Phase) := (nextOf (step s)).map fun t => (t.trace, t.phase)

/-- P2, step 4. -/
theorem test_modeSet : events (running .modeset false [] []) =
    some ([.issue (.modeSet 17 .output)], .modeset) := by decide
/-- D9. -/
theorem test_modeSet_fails : events (running .modeset true [] [.complete (.fail 9)]) =
    some ([.cmplFail 9, .done (.fail (.hw 0x80#8 9)) false], .doneFail) := by decide
/-- P2, step 5. -/
theorem test_waveClear : events (running .clear false [] []) = some ([.issue .waveClear], .clear) := by decide
theorem test_waveClear_ok : events (running .clear true [] [.complete (.ok .unit)]) =
    some ([.cmplOk .unit], .add) := by decide
/-- P2, step 6: the pin of ON and OFF is 17, and T_TAIL is 100 (30_encoding.md R59). -/
theorem test_waveAddPulse : events (running .add false [] []) =
    some ([.issue (.waveAddPulse [⟨0#32, 0x00020000#32, 100#32⟩, ⟨0#32, 0x00020000#32, 100#32⟩])], .add) := by
  decide
/-- D2: an empty last chunk. -/
theorem test_waveAddPulse_empty :
    events { running .add false [5] [] with params := { fixtureParams with chunkSize := 2 }, nch := 2, ci := 1 } =
      some ([.issue (.waveAddPulse [])], .add) := by decide
/-- P2, step 6, the last chunk. -/
theorem test_waveCreate : events (running .create false [] []) = some ([.issue .waveCreate], .create) := by decide
theorem test_waveCreate_ok : events (running .create true [] [.complete (.ok (.handle 7))]) =
    some ([.cmplOk (.handle 7)], .chain) := by decide
/-- P2, step 7. -/
theorem test_waveChainTx : events (running .chain false [7] []) =
    some ([.issue (.waveChainTx [7])], .chain) := by decide
/-- D10. -/
theorem test_waveChainTx_fails : events (running .chain true [7] [.complete (.fail 3)]) =
    some ([.cmplFail 3, .done (.fail (.hw 0x84#8 3)) false], .doneFail) := by decide
/-- P2, step 8. -/
theorem test_write : events (running .deact false [7] []) = some ([.issue (.write 17 0)], .deact) := by decide
theorem test_write_ok : events (running .deact true [7] [.complete (.ok .unit)]) =
    some ([.cmplOk .unit, .done .ok false], .doneOk) := by decide

-- ### The checksum, the pulse train, the carrier and the wave (95_test_vectors.md sections 3.3 to 3.6)

/-- C1 to C7. -/
theorem test_checksum_negsum :
    [[0x14#8, 0x61#8, 0x00#8, 0x00#8], [0x14#8, 0xE1#8, 0x00#8, 0x00#8], [0xFF#8, 0xFF#8, 0xFF#8, 0x00#8],
      [0x00#8, 0x00#8, 0x00#8, 0x77#8], [0x14#8, 0xE1#8, 0x41#8, 0x00#8], [0x14#8, 0x02#8]].map
        (checksum fixtureTable) =
      [some 0x8B#8, some 0x0B#8, some 0x03#8, some 0x00#8, some 0xCA#8, none] := by decide
theorem test_checksum_sum :
    [[0x14#8, 0x61#8, 0x00#8, 0x00#8], [0xFF#8, 0xFF#8, 0xFF#8, 0x00#8], [0x14#8, 0x61#8, 0x80#8, 0x00#8]].map
        (checksum { fixtureTable with ckKind := .sum }) = [some 0x75#8, some 0xFD#8, some 0xF5#8] := by decide
/-- T1. -/
theorem test_encodeFrame : encodeFrame fixtureTable [0xA5#8] =
    [3320, 1580, 420, 1200, 420, 400, 420, 1200, 420, 400, 420, 400, 420, 1200, 420, 400, 420, 1200, 420] := by
  decide
/-- Section 3.5. -/
theorem test_carrierCount :
    [0, 6, 7, 13, 20, 26, 124, 125, 126, 375, 420, 1580, 3320, 9000].map (carrierCount fixtureParams) =
      [0, 0, 1, 1, 2, 2, 9, 10, 10, 29, 32, 120, 252, 684] := by decide
/-- 93_implementation_defined.md I3 and I4. -/
theorem test_carrierCount_other :
    (carrierCount { fixtureParams with carrierTie := .down } 125,
      carrierCount { fixtureParams with carrierTie := .even } 125,
      carrierCount { fixtureParams with carrierTie := .even } 375,
      carrierCount { fixtureParams with carrierPeriod := .rounded26 } 3320,
      carrierCount { fixtureParams with carrierPeriod := .rounded26 } 420) = (9, 10, 28, 255, 32) := by decide
/-- A1. -/
theorem test_assemble_header : (assemble fixtureParams [3320, 1580, 420]).length = 287 := by decide +kernel
/-- A3. -/
theorem test_wave_layout :
    ([0, 1, 252, 253, 285, 1340, 1342].map fun k =>
      (waveOf fixtureParams [0x14#8, 0x61#8, 0x00#8, 0x8B#8])[k]?) =
      [some (pulseOn fixtureParams 13), some (pulseOff fixtureParams 13), some (pulseOff fixtureParams 1580),
        some (pulseOn fixtureParams 13), some (pulseOff fixtureParams 400), some (pulseOff fixtureParams 13),
        some (pulseOff fixtureParams 100)] := by decide +kernel

-- ### What meets the hypotheses of each obligation

/-- The running state meets the invariant in every phase in which a run is in flight. -/
theorem running_inv (ph : Phase) (aw : Bool) (hs : List Nat) (sched : List Move)
    (h : (running ph aw hs sched).RunInv) : (running ph aw hs sched).Inv where
  built := test_fixture_admitted
  fnWf := rfl
  ffWf := rfl
  tempMin := show (16 : Int) ≤ 22 by decide
  tempMax := show (22 : Int) ≤ 30 by decide
  fan := show 0 ∈ [0, 1, 2, 3] by decide
  mode := show 0 ∈ [0, 1, 2, 4] by decide
  swing := show 0 ∈ [0, 1] by decide
  variant := fun _ => rfl
  run := h

theorem running_loaded (ph : Phase) (aw : Bool) (hs : List Nat) (sched : List Move) :
    (running ph aw hs sched).RunLoaded where
  pending := rfl
  handle := rfl
  chunks := show 1 = 2 / 100 + 1 by decide
  tail := List.suffix_rfl

theorem create_inv (aw : Bool) (sched : List Move) : (running .create aw [] sched).Inv :=
  running_inv _ _ _ _ ⟨running_loaded _ _ _ _, rfl, show 0 < 1 by decide, rfl⟩

theorem waitReady_inv (sched : List Move) : (running .waitReady false [] sched).Inv :=
  running_inv _ _ _ _ ⟨running_loaded _ _ _ _, rfl, rfl, rfl⟩

/-- A waiting run whose collaborator is not ready. -/
def waiting (sched : List Move) : State := { running .waitReady false [] sched with ready := false }

theorem waiting_inv (sched : List Move) : (waiting sched).Inv where
  built := test_fixture_admitted
  fnWf := rfl
  ffWf := rfl
  tempMin := show (16 : Int) ≤ 22 by decide
  tempMax := show (22 : Int) ≤ 30 by decide
  fan := show 0 ∈ [0, 1, 2, 3] by decide
  mode := show 0 ∈ [0, 1, 2, 4] by decide
  swing := show 0 ∈ [0, 1] by decide
  variant := fun _ => rfl
  run := ⟨⟨rfl, rfl, show 1 = 2 / 100 + 1 by decide, List.suffix_rfl⟩, rfl, rfl, rfl⟩

theorem wit_DecodeOfEncode : (Instr.setTemp (-8388608)).wf = true ∧ (Instr.writeByte 0xFF#8 255).wf = true ∧
    (Instr.setSwing 0xFFFFFF).wf = true ∧ Instr.write.wf = true := by decide
theorem wit_DecodedCodeIsItsEncoding : decode (.cmd32 0x80000001#32) = .ok (.setTemp (-8388608)) ∧
    decode (.out8 0x85#8) = .ok .write := by decide
theorem wit_IllegalWordsRaiseIllegal :
    let s := { State.reset with pending := [.host 0x0000000A#32] }
    s.params.admitted = true ∧ s.pending = [.host 0x0000000A#32] ∧
      decodeWord 0x0000000A#32 = .error (.reservedOpcode 0x0A#8) := by decide
theorem wit_StepRunsTheDecodedCommand :
    let s := { State.reset with pending := [.host 0x00000302#32, .readiness] }
    s.params.admitted = true ∧ s.pending = [.host 0x00000302#32, .readiness] ∧
      decodeWord 0x00000302#32 = .ok (.setFan 3) := by decide
theorem wit_StepRunsThePhaseCommand :
    let s := running .add false [] []
    let t := running .deact false [7] [.sequencer]
    (s.params.admitted = true ∧ s.await = false ∧ s.phase.command = some .waveAddPulse ∧ s.pending = []) ∧
    (t.params.admitted = true ∧ t.await = false ∧ t.phase.command = some .write ∧ t.pending = [.sequencer]) := by
  decide
theorem wit_PlacedCommandRunsNext : State.reset.params.admitted = true ∧
    (decodeTableWord 32 0x00000208 = some (.readByte 2) ∧ (Instr.readByte 2).inbound = true) ∧
    (decodeTableWord 8 0x82 = some .waveAddPulse ∧ Instr.waveAddPulse.inbound = false) := by decide
theorem wit_EveryInboundCommandAnswersOnce :
    State.reset.params.admitted = true ∧ (Instr.setFan 2).inbound = true := by decide
theorem wit_UnknownNamesAssembleToNoName : fixtureParams.admitted = true ∧
    fixtureParams.names[0]? = some "AUTO" ∧ fixtureParams.names[9]? = some "DRY" ∧
    "TURBO" ∉ fixtureParams.names := by decide
/-- Both ends of each operand's range, and the numbers just outside. -/
theorem wit_NumericLinesAssembleTheirOperands :
    ((-8388608 : Int) ≤ -8388608 ∧ (-8388608 : Int) ≤ 8388607) ∧
    ((-8388608 : Int) ≤ 8388607 ∧ (8388607 : Int) ≤ 8388607) ∧ 0 < 256 ∧ 255 < 256 ∧
    ((-8388609 : Int) < -8388608 ∨ (8388607 : Int) < -8388609) ∧
    ((8388608 : Int) < -8388608 ∨ (8388607 : Int) < 8388608) ∧ 256 ≤ 256 ∧
    (256 ≤ 256 ∨ 256 ≤ 0) ∧ (256 ≤ 0 ∨ 256 ≤ 256) := by decide
theorem wit_FieldWriteChangesOnlyItsBits :
    (State.reset.fieldWrite .fn ⟨2, 0xF0#8, 4⟩ 14).isSome = true ∧
    (State.reset.fieldWrite .ff ⟨2, 0x01#8, 0⟩ 300).isSome = true := by decide
theorem wit_FrameWritesAreIdempotent : (State.reset.memWrite .fn 1 0x5A#8).isSome = true ∧
    (State.reset.memWrite .fn 4 0x8B#8).isSome = true ∧ (State.reset.memWrite .ff 2 0x03#8).isSome = true := by
  decide
theorem wit_StepsKeepConstantsAndHistory : (nextOf (step (running .deact true [7] [.complete (.ok .unit)]))).isSome = true ∧
    (nextOf (step State.reset)).isSome = true := by decide
theorem wit_ResetSetsEveryRegister : fixtureParams.admitted = true ∧
    { fixtureParams with chunkSize := 0 }.admitted = false := by decide
theorem wit_StepRefusesUnbuiltBlocks :
    (State.resetOf { fixtureParams with emitPin := 32 } .present).params.admitted = false := by decide
theorem wit_ResetMeetsTheInvariant : fixtureParams.admitted = true ∧ (withTable id).admitted = true := by decide
theorem wit_StepKeepsTheInvariant : (running .create true [] [.complete (.ok (.handle 7))]).Inv ∧
    (nextOf (step (running .create true [] [.complete (.ok (.handle 7))]))).isSome = true :=
  ⟨create_inv _ _, by decide⟩

/-- The running state's fields hold its registers: byte 2 is 0x61 and byte 3 is 0x00. -/
theorem running_fields (ph : Phase) (aw : Bool) (hs : List Nat) (sched : List Move) :
    (running ph aw hs sched).FieldsAgree :=
  ⟨⟨6, show encodeTemp fixtureTable.encTemp 22 = some 6 by decide,
      show State.reset.fieldRead .fn fixtureTable.fldTemp = some 6 by decide⟩,
    show State.reset.fieldRead .fn fixtureTable.fldFan = some 0 by decide,
    show State.reset.fieldRead .fn fixtureTable.fldMode = some 0 by decide,
    show State.reset.fieldRead .fn fixtureTable.fldSwing = some 0 by decide⟩

/-- A WRITE_BYTE of byte 1, which no field owns; of byte 2, with a power bit changed and the temperature's
bits kept; and of byte 2 while the off frame is active. -/
theorem wit_FrameFieldsHoldTheRegisters :
    let s := running .create false [] [.host 0x005A0109#32]
    let t := running .create false [] [.host 0x00600209#32]
    (s.Inv ∧ s.FieldsAgree ∧ (nextOf (step s)).isSome = true ∧ decodeWord 0x005A0109#32 = .ok (.writeByte 0x5A#8 1) ∧
      s.KeepsSettingBits 0x5A#8 1) ∧
    (t.Inv ∧ t.FieldsAgree ∧ (nextOf (step t)).isSome = true ∧ decodeWord 0x00600209#32 = .ok (.writeByte 0x60#8 2) ∧
      t.KeepsSettingBits 0x60#8 2) ∧
    offState.variant = .off := by
  have keeps : ∀ sched, (running .create false [] sched).KeepsSettingBits 0x5A#8 1 ∧
      (running .create false [] sched).KeepsSettingBits 0x60#8 2 := by
    intro sched
    constructor <;> intro f hf hn b hb
    · have h1 : ∀ f ∈ [fixtureTable.fldTemp, fixtureTable.fldFan, fixtureTable.fldMode, fixtureTable.fldSwing],
        f.pos ≠ 1 := by decide
      exact absurd hn (h1 f hf)
    · have hm : (running .create false [] sched).memRead .fn 2 = some 0x61#8 :=
        show State.reset.memRead .fn 2 = some 0x61#8 by decide
      rw [hm] at hb
      cases hb
      have h2 : ∀ f ∈ [fixtureTable.fldTemp, fixtureTable.fldFan, fixtureTable.fldMode, fixtureTable.fldSwing],
        f.pos = 2 → 0x60#8 &&& f.mask = 0x61#8 &&& f.mask := by decide
      exact h2 f hf hn
  exact ⟨⟨create_inv _ _, running_fields _ _ _ _, by decide, by decide, (keeps _).1⟩,
    ⟨create_inv _ _, running_fields _ _ _ _, by decide, by decide, (keeps _).2⟩, rfl⟩

theorem wit_SetTempClampsAndEncodes : (0x00002301#32 : Word).extractLsb' 0 8 = 0x01#8 ∧
    State.reset.params.admitted = true := by decide
theorem wit_OptionSettersEncodeKnownNames : State.reset.params.admitted = true ∧
    (0x00000302#32 : Word).extractLsb' 0 8 = 0x02#8 ∧ (0x00000703#32 : Word).extractLsb' 0 8 = 0x03#8 ∧
    (0x00000804#32 : Word).extractLsb' 0 8 = 0x04#8 ∧
    lookupCode State.reset.params.vt.fanMap 5 = some 3 ∧ lookupCode State.reset.params.vt.modeMap 7 = some 4 ∧
    lookupCode State.reset.params.vt.swingMap 8 = some 1 ∧ lookupCode State.reset.params.vt.fanMap 6 = none ∧
    lookupCode State.reset.params.vt.modeMap 3 = none ∧ lookupCode State.reset.params.vt.swingMap 0 = none := by
  decide
theorem wit_UltraIsNeverAnOption : offState.params.admitted = true ∧
    offState.params.nameOf 2 = some "ULTRA" := by decide
theorem wit_TurnOnSelectsTheNormalFrame : (0x00000005#32 : Word).extractLsb' 0 8 = 0x05#8 ∧
    (0x00000005#32 : Word).extractLsb' 8 24 = 0#24 ∧ offState.params.admitted = true ∧
    offState.variant = .off := by decide
/-- A vendor with an off frame, and one with a power field only. -/
theorem wit_TurnOffSelectsTheOffFrame : (0x00000006#32 : Word).extractLsb' 0 8 = 0x06#8 ∧
    (0x00000006#32 : Word).extractLsb' 8 24 = 0#24 ∧ State.reset.params.admitted = true ∧
    State.reset.params.vt.frameOff.isSome = true ∧
    (withTable fun v => { v with frameOff := none }).admitted = true := by decide
/-- Both ends of the index range, and both indices outside it. -/
theorem wit_ReadByteReadsTheActiveFrame : (0x00000208#32 : Word).extractLsb' 0 8 = 0x08#8 ∧
    (0x00000208#32 : Word).extractLsb' 16 16 = 0#16 ∧
    (1 ≤ 1 ∧ 1 ≤ (State.reset.frame State.reset.activeSpace).length) ∧
    (1 ≤ 4 ∧ 4 ≤ (State.reset.frame State.reset.activeSpace).length) ∧
    ¬ (1 ≤ 0 ∧ 0 ≤ (State.reset.frame State.reset.activeSpace).length) ∧
    ¬ (1 ≤ 3 ∧ 3 ≤ (offState.frame offState.activeSpace).length) := by decide
theorem wit_WriteByteWritesTheActiveFrame : (0x005A0109#32 : Word).extractLsb' 0 8 = 0x09#8 ∧
    (0x005A0109#32 : Word).extractLsb' 24 8 = 0#8 ∧
    (1 ≤ 2 ∧ 2 ≤ (offState.frame offState.activeSpace).length) ∧
    ¬ (1 ≤ 5 ∧ 5 ≤ (State.reset.frame State.reset.activeSpace).length) := by decide
theorem wit_FrameCommandsNeverTransmit : Instr.turnOff.inbound = true ∧ Instr.turnOff ≠ .sendWave ∧
    (nextOf (exec .turnOff (running .create true [] []))).isSome = true := by decide
theorem wit_SettingsDecodeBackFromTheFrame : offState.params.admitted = true ∧
    lookupCode offState.params.vt.fanMap 3 ≠ none ∧ lookupCode offState.params.vt.modeMap 9 ≠ none ∧
    lookupCode offState.params.vt.swingMap 1 ≠ none := by decide
theorem wit_ChecksumSumsTheRange : 1 ≤ fixtureTable.ckLo ∧ fixtureTable.ckLo ≤ fixtureTable.ckHi ∧
    fixtureTable.ckHi ≤ fixtureTable.ckLen ∧ fixtureTable.frameOn.length = fixtureTable.ckLen ∧
    fixtureTable.ckKind = .negsum ∧ fixtureTable.offTemplate.length ≠ fixtureTable.ckLen ∧
    (withTable fun v => { v with ckKind := .sum, frameOn := [0x14#8, 0x61#8, 0x00#8, 0x75#8] }).vt.ckKind = .sum := by
  decide
theorem wit_ChecksumIgnoresItsOwnByte : fixtureParams.admitted = true := test_fixture_admitted
theorem wit_PulseTrainPositions : ([0xA5#8, 0x14#8] : List Byte)[1]? = some 0x14#8 ∧ 7 < 8 := by decide
theorem wit_PulseTrainNominalTime :
    4 = (([0xA5#8] : List Byte).flatMap fun b => (List.range 8).map b.getLsbD).count true := by decide
/-- A count half way and one that is not, with each reading. -/
theorem wit_CarrierCountFormula : fixtureParams.SpecCarrier ∧ 375 % 250 = 125 ∧ 420 % 250 ≠ 125 ∧
    (fixtureParams.carrierPeriod = .exactPeriod ∧ fixtureParams.carrierTie = .up) ∧
    { fixtureParams with carrierTie := .down }.carrierTie = .down ∧
    { fixtureParams with carrierTie := .even }.carrierTie = .even ∧
    { fixtureParams with carrierPeriod := .rounded26 }.carrierPeriod = .rounded26 := by decide
/-- An odd count, an even one, and none at all; the emitter's line is line 17. -/
theorem wit_BurstAlternatesFromOn : (fixtureParams.admitted = true ∧ 17 < 32 ∧ 17 = fixtureParams.emitPin) ∧
    carrierCount fixtureParams 375 % 2 = 1 ∧
    (carrierCount fixtureParams 420 ≠ 0 ∧ carrierCount fixtureParams 420 % 2 = 0) ∧
    31 < carrierCount fixtureParams 420 ∧ carrierCount fixtureParams 6 = 0 := by decide
theorem wit_WaveEndsDeasserted : ([0] : List Nat) ≠ [] := by decide
/-- A mark of 7 µs is one ON, and the terminal instruction after it deasserts. -/
theorem wit_EveryAssertIsFollowedByADeassert :
    (assemble fixtureParams [7])[0]? = some (pulseOn fixtureParams 13) ∧
    (pulseOn fixtureParams 13).onMask ≠ 0#32 := by decide
theorem wit_WaveLayoutOfAFrame : 252 = carrierCount fixtureParams fixtureParams.vt.tHdrMark ∧
    32 = carrierCount fixtureParams fixtureParams.vt.tGap ∧ (fixtureParams.vt.frameOn)[3]? = some 0x8B#8 := by decide
theorem wit_SendWaveAcceptsOneRun : (0x00000007#32 : Word).extractLsb' 0 8 = 0x07#8 ∧
    (0x00000007#32 : Word).extractLsb' 8 24 = 0#24 ∧ State.reset.params.admitted = true ∧
    State.reset.phase ∈ [.idle, .doneOk, .doneFail] ∧
    (running .chain true [7] []).phase ∉ [.idle, .doneOk, .doneFail] ∧
    checksum State.reset.params.vt (State.reset.frame State.reset.activeSpace) = some 0x8B#8 ∧
    checksum offState.params.vt (offState.frame offState.activeSpace) = none ∧
    State.reset.hwHandle = .present ∧ (State.resetOf fixtureParams .absent).hwHandle = .absent := by decide
theorem wit_WaitReadyLeavesOnceReady :
    ∀ sched ∈ [[], [Move.sequencer, .reconnect]],
      let s := running .waitReady false [] sched
      let t := waiting sched
      s.params.admitted = true ∧ s.phase = .waitReady ∧ s.pending = sched ∧ s.ready = true ∧
        t.params.admitted = true ∧ t.phase = .waitReady ∧ t.pending = sched ∧ t.ready = false := by decide
theorem wit_ModeSetAndClearIssueAndAdvance :
    let s := running .modeset true [] [.complete (.ok .unit)]
    let t := running .clear true [] [.complete (.ok .unit)]
    (running .modeset false [] []).await = false ∧ (running .clear false [] []).await = false ∧
      s.params.admitted = true ∧ s.await = true ∧ s.pending = [.complete (.ok .unit)] ∧ s.phase = .modeset ∧
      t.params.admitted = true ∧ t.await = true ∧ t.pending = [.complete (.ok .unit)] ∧ t.phase = .clear := by
  decide
/-- The last chunk, and one before it. -/
theorem wit_AddAndCreateIssueAndAdvance :
    let s := running .add true [] [.complete (.ok .unit)]
    let t := running .create true [] [.complete (.ok (.handle 7))]
    (running .add false [] []).await = false ∧ (running .create false [] []).await = false ∧
      s.params.admitted = true ∧ s.await = true ∧ s.pending = [.complete (.ok .unit)] ∧ s.phase = .add ∧
      t.params.admitted = true ∧ t.await = true ∧ t.pending = [.complete (.ok (.handle 7))] ∧
      t.phase = .create ∧ ¬ t.ci + 1 < t.nch ∧ ({ t with nch := 2 }).ci + 1 < ({ t with nch := 2 }).nch := by decide
theorem wit_ChainAndWriteIssueAndFinish :
    let s := running .chain true [7] [.complete (.ok .unit)]
    let t := running .deact true [7] [.complete (.ok .unit)]
    (running .chain false [7] []).await = false ∧ (running .deact false [7] []).await = false ∧
      s.params.admitted = true ∧ s.await = true ∧ s.pending = [.complete (.ok .unit)] ∧ s.phase = .chain ∧
      t.params.admitted = true ∧ t.await = true ∧ t.pending = [.complete (.ok .unit)] ∧ t.phase = .deact := by
  decide
/-- Reset meets all six hypotheses, and so does each phase with its command outstanding. -/
theorem wit_OutboundCommandsIssueOnlyInTheirPhase :
    ¬ (State.reset.phase = .modeset ∧ State.reset.await = false) ∧
    ¬ ((running .clear true [] []).phase = .clear ∧ (running .clear true [] []).await = false) ∧
    ¬ (State.reset.phase = .add ∧ State.reset.await = false) ∧
    ¬ (State.reset.phase = .create ∧ State.reset.await = false) ∧
    ¬ (State.reset.phase = .chain ∧ State.reset.await = false) ∧
    ¬ ((running .deact true [] []).phase = .deact ∧ (running .deact true [] []).await = false) := by decide
theorem wit_CommandFailureEndsTheRun :
    let s := running .create true [] [.complete (.fail 4)]
    s.params.admitted = true ∧ s.await = true ∧ s.phase.tag = some 0x83#8 ∧ s.pending = [.complete (.fail 4)] ∧
      (nextOf (exec .waveCreate (running .create false [] []))).map (·.trace) = some ([] ++ [.issue .waveCreate]) := by
  decide
/-- A chunk size of 1, and a full chunk before the rest. -/
theorem wit_ChunksMakeUpTheWave : 1 ≤ 1 ∧ 0 < (waveTail fixtureParams).length / 1 := by decide
theorem wit_RunsFollowTheCommandSequence :
    let s := { running .create false [] [] with
      trace := [.issue (.modeSet 17 .output), .cmplOk .unit, .issue .waveClear, .cmplOk .unit,
        .issue (.waveAddPulse (waveTail fixtureParams)), .cmplOk .unit] }
    s.Inv ∧ issuesOf s.trace = [] ++ s.runIssues ∧ (nextOf (step s)).isSome = true := by
  have h := create_inv false []
  exact ⟨⟨h.built, h.fnWf, h.ffWf, h.tempMin, h.tempMax, h.fan, h.mode, h.swing, h.variant,
    ⟨⟨rfl, rfl, show 1 = 2 / 100 + 1 by decide, List.suffix_rfl⟩, rfl, show 0 < 1 by decide, rfl⟩⟩, by decide,
    by decide⟩
/-- With every kind of move between the turns: a SEND_WAVE first, both notifications, a setter and an awaiting
turn before the first completion. -/
theorem wit_SuccessfulRunIssuesTheWholeSequence :
    let sched := .host 0x00000007#32 :: .sequencer :: .readiness :: .sequencer :: .host 0x00000302#32 ::
      .sequencer :: .reconnect :: (successSchedule [7]).drop 2
    let s := running .waitReady false [] sched
    s.Inv ∧ s.phase = .waitReady ∧ s.ready = true ∧ [7].length = s.nch ∧
      Interleaved (successSchedule [7]) s.pending := by
  have all : ∀ own, Interleaved own own := fun own => by
    induction own with
    | nil => exact .done
    | cons m own ih => exact .own m ih
  exact ⟨waitReady_inv _, rfl, rfl, rfl,
    .host _ (.own _ (.readiness (.own _ (.host _ (.idle (.reconnect (all _)))))))⟩
/-- A command outstanding, and its completion next. -/
theorem wit_AtMostOneCommandOutstanding :
    let s := { running .create true [] [.complete (.ok (.handle 7))] with trace := [.issue .waveCreate] }
    s.Inv ∧ (nextOf (step s)).isSome = true ∧
      (issuesOf s.trace).length = completionCount s.trace + (if s.await then 1 else 0) := by
  have h := create_inv true [.complete (.ok (.handle 7))]
  exact ⟨⟨h.built, h.fnWf, h.ffWf, h.tempMin, h.tempMax, h.fan, h.mode, h.swing, h.variant,
    ⟨⟨rfl, rfl, show 1 = 2 / 100 + 1 by decide, List.suffix_rfl⟩, rfl, show 0 < 1 by decide, rfl⟩⟩, by decide,
    by decide⟩
/-- A run in flight that ends in this step. -/
theorem wit_EachRunSignalsOneDone :
    let s := { running .create true [] [.complete (.fail 4)] with responses := [.ok .accepted] }
    s.Inv ∧ (nextOf (step s)).isSome = true ∧
      doneCount s.trace + (if s.phase.inFlight then 1 else 0) = acceptedCount s.responses := by
  have h := create_inv true [.complete (.fail 4)]
  exact ⟨⟨h.built, h.fnWf, h.ffWf, h.tempMin, h.tempMax, h.fan, h.mode, h.swing, h.variant,
    ⟨⟨rfl, rfl, show 1 = 2 / 100 + 1 by decide, List.suffix_rfl⟩, rfl, show 0 < 1 by decide, rfl⟩⟩, by decide,
    by decide⟩
theorem wit_SequencerReadsNoFrame :
    let s₁ := running .create false [] []
    let s₂ := { s₁ with temp := 30, fn := [(2, 0xE1#8)], variant := .off }
    s₂ = { s₁ with temp := s₂.temp, fan := s₂.fan, mode := s₂.mode, swing := s₂.swing,
                   variant := s₂.variant, fn := s₂.fn, ff := s₂.ff } ∧
    (∀ w rest, s₁.pending ≠ .host w :: rest) ∧ (nextOf (step s₁)).isSome = true :=
  ⟨rfl, fun w rest h => (by cases h), by decide⟩
/-- SET_FAN of an unknown name. -/
theorem wit_SynchronousFailuresChangeNothing :
    (nextOf (exec (.setFan 2) State.reset)).map (·.responses) =
      some (State.reset.responses ++ [.fail (.validation 2)]) := by decide
theorem wit_NotificationsSetOnlyReady : State.reset.params.admitted = true ∧
    ({ State.reset with pending := [.readiness] }).pending = [.readiness] ∧
    (running .add true [] [.readiness]).ready = true ∧
    ({ State.reset with pending := [.reconnect] }).pending = [.reconnect] := by decide
/-- A completion that must not come: WAVE_CREATE without a handle. -/
theorem wit_StepStopsOnlyOutsideTheModel : (running .create true [] [.complete (.ok .unit)]).Inv ∧
    ¬ ((running .create true [] []).await = true ∧ (Completion.ok .unit).allowedIn .create) :=
  ⟨create_inv _ _, fun h => h.2 rfl⟩

/-- A table with what the source fixes of Fujitsu's, the rest the fixture's. -/
def fujitsuLike : Params :=
  withTable fun v => { v with ckConst := 163, frameOn := [0x14#8, 0x61#8, 0x00#8, 0x2E#8] }

theorem fujitsuLike_is : IsFujitsu fujitsuLike where
  admitted := by decide
  hdrMark := rfl
  hdrSpace := rfl
  gap := rfl
  temp := rfl
  mode := by decide
  fan := by decide
  swing := by decide
  ckByte := by decide
  ckValue := by decide

theorem wit_FujitsuResetState : IsFujitsu fujitsuLike ∧ fixtureParams.admitted = true :=
  ⟨fujitsuLike_is, test_fixture_admitted⟩
theorem wit_FujitsuFirstTransmission : IsFujitsu fujitsuLike ∧ fujitsuLike.SpecCarrier :=
  ⟨fujitsuLike_is, by decide⟩
theorem wit_HungCommandStallsTheRun :
    let s := running .create true [] [.host 0x00000007#32]
    s.params.admitted = true ∧ s.await = true ∧ s.phase.tag ≠ none ∧
      (∀ c rest, s.pending ≠ .complete c :: rest) :=
  ⟨test_fixture_admitted, rfl, by decide, fun c rest h => (by cases h)⟩
theorem wit_RunWaitsUntilReady :
    let s := waiting [.host 0x00000007#32]
    s.Inv ∧ s.phase = .waitReady ∧ s.ready = false ∧ (∀ rest, s.pending ≠ .readiness :: rest) ∧
      (∀ c rest, s.pending ≠ .complete c :: rest) :=
  ⟨waiting_inv _, rfl, rfl, fun rest h => (by cases h), fun c rest h => (by cases h)⟩

end Sys2Proof.Machine.Tests
end

section
/-! PROOFS. Fields of the frame buffers (10_state.md R19): the bits of a written byte, the bytes a field
write keeps, and obligation O10. -/

namespace Sys2Proof.Field

/-- A bit of the mask takes the value's shifted bit (10_state.md R19). -/
theorem insert_getLsbD_inside (f : Field) (b : Byte) (v j : Nat) (h : f.mask.getLsbD j = true) :
    (f.insert b v).getLsbD j = (v * 2 ^ f.shift).testBit j := by
  have hj : j < 8 := BitVec.lt_of_getLsbD h
  have hbit := congrArg (BitVec.getLsbD · j) (insert_and_mask f b v)
  simpa only [BitVec.getLsbD_and, h, Bool.and_true, BitVec.getLsbD_ofNat, hj, decide_true, Bool.true_and]
    using hbit

/-- The bits of a written byte: the mask chooses between the value's shifted bits and the old byte's. -/
theorem insert_getLsbD (f : Field) (b : Byte) (v j : Nat) :
    (f.insert b v).getLsbD j =
      if f.mask.getLsbD j then (v * 2 ^ f.shift).testBit j else b.getLsbD j := by
  split
  · next h => exact insert_getLsbD_inside f b v j h
  · next h => exact insert_getLsbD_outside f b v j (Bool.eq_false_of_not_eq_true h)

end Sys2Proof.Field

namespace Sys2Proof.Machine.State

/-- A frame write keeps every other byte of both buffers. -/
theorem memWrite_sameBytesBut {s s' : State} {S : FrameSpace} {n : Nat} {v : Byte}
    (h : s.memWrite S n v = some s') : s.SameBytesBut s' S n :=
  fun _ _ hk => memRead_memWrite_ne h hk

theorem fieldRead_of_memRead {s : State} {S : FrameSpace} {f : Field} {b : Byte}
    (h : s.memRead S f.pos = some b) : s.fieldRead S f = some (f.extract b) := by
  simp [fieldRead, h]

end Sys2Proof.Machine.State

namespace Sys2Proof.Machine

/-- Settles O10: a field write is a frame write of the byte that `Field.insert` gives, so the frame is that
of the frame write and the bits are those of `Field.insert_getLsbD`. -/
theorem fieldWriteChangesOnlyItsBits : Obligations.FieldWriteChangesOnlyItsBits := by
  intro s s' S f v h
  obtain ⟨b, hb, hw⟩ := State.fieldWrite_cases h
  exact ⟨State.memWrite_sameBytesBut hw, b, f.insert b v, hb, State.memRead_memWrite_self hw,
    State.fieldRead_of_memRead hb, fun j _ => Field.insert_getLsbD f b v j⟩

end Sys2Proof.Machine
end

section
/-! PROOFS. Illegal words (30_encoding.md R55): which words each part of the decoder rejects, the command
unit's turn on one, and obligation O4. -/

namespace Sys2Proof

theorem decodeBare_error_iff (i : Instr) (w : Word) :
    (∃ err, decodeBare i w = .error err) ↔ operand w ≠ 0#24 := by
  unfold decodeBare
  split
  · next h => simp [h]
  · next h => simp [h]

theorem decodeReadByte_error_iff (w : Word) :
    (∃ err, decodeReadByte w = .error err) ↔ w.extractLsb' 16 16 ≠ 0#16 := by
  unfold decodeReadByte
  split
  · next h => simp [h]
  · next h => simp [h]

theorem decodeWriteByte_error_iff (w : Word) :
    (∃ err, decodeWriteByte w = .error err) ↔ w.extractLsb' 24 8 ≠ 0#8 := by
  unfold decodeWriteByte
  split
  · next h => simp [h]
  · next h => simp [h]

/-- The rejected words, by their opcode and their required-zero bits (30_encoding.md R51, R55). -/
theorem decodeWord_error_iff (w : Word) :
    (∃ err, decodeWord w = .error err) ↔
      (opcode w = 0x00#8 ∨ 0x0A#8 ≤ opcode w ∨
        (opcode w ∈ [0x05#8, 0x06#8, 0x07#8] ∧ operand w ≠ 0#24) ∨
        (opcode w = 0x08#8 ∧ w.extractLsb' 16 16 ≠ 0#16) ∨
        (opcode w = 0x09#8 ∧ w.extractLsb' 24 8 ≠ 0#8)) := by
  have opc {k : Byte} (h : (opcode w).toNat = k.toNat) : opcode w = k := BitVec.eq_of_toNat_eq h
  unfold decodeWord
  split
  · next h => simp [opc (k := 0x01#8) h]
  · next h => simp [opc (k := 0x02#8) h]
  · next h => simp [opc (k := 0x03#8) h]
  · next h => simp [opc (k := 0x04#8) h]
  · next h => simp [opc (k := 0x05#8) h, decodeBare_error_iff]
  · next h => simp [opc (k := 0x06#8) h, decodeBare_error_iff]
  · next h => simp [opc (k := 0x07#8) h, decodeBare_error_iff]
  · next h => simp [opc (k := 0x08#8) h, decodeReadByte_error_iff]
  · next h => simp [opc (k := 0x09#8) h, decodeWriteByte_error_iff]
  · simp only [imp_false] at *
    have reserved : opcode w = 0x00#8 ∨ 0x0A#8 ≤ opcode w := by bv_omega
    exact iff_of_true ⟨_, rfl⟩ (reserved.imp_right .inl)

end Sys2Proof

namespace Sys2Proof.Machine

theorem commandTurn_illegal {w : Word} {err : DecodeError} (s : State) (h : decodeWord w = .error err) :
    commandTurn w s = .other (.next (s.raise (.illegal w))) := by
  simp only [commandTurn, h]

/-- Settles O4: the illegal words are those the decoder's parts reject, and the command unit's turn on one is
a raise. -/
theorem illegalWordsRaiseIllegal : Obligations.IllegalWordsRaiseIllegal := by
  refine ⟨decodeWord_error_iff, fun s w rest err hp hpend hd => ?_⟩
  rw [step_cons hp hpend, takeMove, commandTurn_illegal _ hd, Fetched.run_other, raise_eq]

end Sys2Proof.Machine
end

section
/-! PROOFS. The answers of the inbound commands (30_encoding.md R57): each completes on admitted parameters,
a completed one adds one response of its kind, and obligation O8. -/

namespace Sys2Proof.Machine

namespace State

theorem memWrite_responses {s s' : State} {S : FrameSpace} {n : Nat} {v : Byte}
    (h : s.memWrite S n v = some s') : s'.responses = s.responses := by rw [memWrite_eq h]

theorem fieldWrite_responses {s s' : State} {S : FrameSpace} {f : Field} {v : Nat}
    (h : s.fieldWrite S f v = some s') : s'.responses = s.responses := by rw [fieldWrite_eq h]

theorem writePower_responses {s s' : State} {value : PowerField → Nat} (h : s.writePower value = some s') :
    s'.responses = s.responses := by
  unfold writePower at h
  split at h
  · exact fieldWrite_responses h
  · cases h; rfl

theorem writeChecksum_responses {s s' : State} (h : s.writeChecksum = some s') :
    s'.responses = s.responses := by rw [writeChecksum_eq h]

@[simp] theorem loadRun_responses (s : State) : s.loadRun.responses = s.responses := rfl

@[simp] theorem startRun_responses (s : State) : s.startRun.responses = s.responses := by
  unfold startRun
  split <;> simp

end State

/-! ### Completion on admitted parameters -/

section
variable {s : State} (hp : s.params.admitted = true)
include hp

theorem exists_execSetTemp (t : Int) : ∃ s', execSetTemp t s = .next s' := by
  obtain ⟨hlo, hhi⟩ := s.clampTemp_bounds hp t
  obtain ⟨e, he, -⟩ := Params.admitted_temp hp hlo hhi
  obtain ⟨_, s₁, -, -, hw⟩ := s.admitted_fieldWrite hp s.params.vt.fldTemp_mem e
  simp [execSetTemp, he, hw]

theorem exists_setOption (m : List (Nat × Nat)) {f : Field} (hf : f ∈ s.params.vt.fields) (nid : Nat)
    (store : State → Nat → State) : ∃ s', setOption m f nid store s = .next s' := by
  cases hc : lookupCode m nid with
  | none => simp [setOption, hc]
  | some c =>
    obtain ⟨_, s₁, -, -, hw⟩ := s.admitted_fieldWrite hp hf c
    simp [setOption, hc, hw]

theorem exists_execTurnOn : ∃ s', execTurnOn s = .next s' := by
  obtain ⟨s₁, hw, -⟩ := s.admitted_writePower hp (·.pwrOn)
  simp [execTurnOn, hw]

theorem exists_execTurnOff : ∃ s', execTurnOff s = .next s' := by
  obtain ⟨s₁, hw, -⟩ := s.admitted_writePower hp (·.pwrOff)
  simp [execTurnOff, hw]

theorem exists_execSendWave : ∃ s', execSendWave s = .next s' := by
  obtain ⟨s₁, hw⟩ := exists_writeChecksum s hp
  cases hb : s.phase.inFlight with
  | true => simp [execSendWave, hb]
  | false => simp [execSendWave, hb, hw]

/-- Every inbound command completes (30_encoding.md R57). -/
theorem exists_exec_inbound {i : Instr} (hi : i.inbound = true) : ∃ s', exec i s = .next s' := by
  cases i with
  | setTemp t => exact exists_execSetTemp hp t
  | setFan nid => exact exists_setOption hp _ s.params.vt.fldFan_mem nid _
  | setMode nid => exact exists_setOption hp _ s.params.vt.fldMode_mem nid _
  | setSwing nid => exact exists_setOption hp _ s.params.vt.fldSwing_mem nid _
  | turnOn => exact exists_execTurnOn hp
  | turnOff => exact exists_execTurnOff hp
  | sendWave => exact exists_execSendWave hp
  | readByte n =>
    obtain ⟨b, -, h⟩ | ⟨-, h⟩ := execReadByte_cases n s
    · exact ⟨_, h⟩
    · exact ⟨_, h⟩
  | writeByte v n =>
    obtain ⟨s₁, -, h⟩ | ⟨-, h⟩ := execWriteByte_cases v n s
    · exact ⟨_, h⟩
    · exact ⟨_, h⟩
  | modeSet | waveClear | waveAddPulse | waveCreate | waveChainTx | write => cases hi

end

/-! ### One response, of the command's kind -/

/-- An option setter that completes answers its name or E_VALIDATION, once. -/
theorem setOption_answers {m : List (Nat × Nat)} {f : Field} {nid : Nat} {store : State → Nat → State}
    {s s' : State} (h : setOption m f nid store s = .next s')
    (hst : ∀ t c, (store t c).responses = t.responses) :
    ∃ r, s'.responses = s.responses ++ [r] ∧ (r = .ok (.name nid) ∨ r = .fail (.validation nid)) := by
  obtain ⟨-, rfl⟩ | ⟨c, s₁, -, hw, rfl⟩ := setOption_cases h
  · exact ⟨_, s.raise_responses _, .inr rfl⟩
  · exact ⟨_, by rw [State.respond_responses, hst, State.fieldWrite_responses hw], .inl rfl⟩

theorem execSendWave_answers {s s' : State} (h : execSendWave s = .next s') :
    ∃ r, s'.responses = s.responses ++ [r] ∧ (r = .ok .accepted ∨ r = .fail .busy) := by
  obtain ⟨-, rfl⟩ | ⟨-, s₁, hw, rfl⟩ := execSendWave_cases h
  · exact ⟨_, s.raise_responses _, .inr rfl⟩
  · exact ⟨_, by simp [State.writeChecksum_responses hw], .inl rfl⟩

/-- An inbound command that completes has answered once, with a response of its kind (30_encoding.md R57). -/
theorem exec_inbound_answers {i : Instr} {s s' : State} (hi : i.inbound = true) (h : exec i s = .next s') :
    ∃ r, s'.responses = s.responses ++ [r] ∧ MayAnswer i s r := by
  cases i with
  | setTemp t =>
    obtain ⟨e, s₁, -, hw, rfl⟩ := execSetTemp_cases h
    exact ⟨_, by simp [State.fieldWrite_responses hw], rfl⟩
  | setFan nid => exact setOption_answers h fun _ _ => rfl
  | setMode nid => exact setOption_answers h fun _ _ => rfl
  | setSwing nid => exact setOption_answers h fun _ _ => rfl
  | turnOn =>
    obtain ⟨s₁, hw, rfl⟩ := execTurnOn_cases h
    exact ⟨_, by simp [State.writePower_responses hw], rfl⟩
  | turnOff =>
    obtain ⟨s₁, hw, rfl⟩ := execTurnOff_cases h
    exact ⟨_, by simp [State.writePower_responses hw], rfl⟩
  | sendWave => exact execSendWave_answers h
  | readByte n =>
    obtain ⟨b, hb, hr⟩ | ⟨-, hr⟩ := execReadByte_cases n s
    · cases hr.symm.trans h
      exact ⟨_, s.respond_responses _, .inl ⟨b, hb, rfl⟩⟩
    · cases hr.symm.trans h
      exact ⟨_, s.raise_responses _, .inr rfl⟩
  | writeByte v n =>
    obtain ⟨s₁, hw, hr⟩ | ⟨-, hr⟩ := execWriteByte_cases v n s
    · cases hr.symm.trans h
      exact ⟨_, by simp [State.memWrite_responses hw], .inl rfl⟩
    · cases hr.symm.trans h
      exact ⟨_, s.raise_responses _, .inr rfl⟩
  | modeSet | waveClear | waveAddPulse | waveCreate | waveChainTx | write => cases hi

/-- Settles O8: on admitted parameters every inbound command completes, and one that completes has answered
once, with a response of its kind. -/
theorem everyInboundCommandAnswersOnce : Obligations.EveryInboundCommandAnswersOnce := by
  intro i s hp hi
  obtain ⟨s', h⟩ := exists_exec_inbound hp hi
  obtain ⟨r, hr, hk⟩ := exec_inbound_answers hi h
  exact ⟨s', r, h, hr, hk⟩

end Sys2Proof.Machine
end

section
/-! PROOFS. The words of the AC Protocol State commands (40_protocol_state.md R66 to R73): what the decoder
reads, by the opcode and the required-zero bits. -/

namespace Sys2Proof

variable {w : Word}

theorem decodeWord_setTemp (h : opcode w = 0x01#8) : decodeWord w = .ok (.setTemp (operand w).toInt) := by
  simp [decodeWord, h]

theorem decodeWord_setFan (h : opcode w = 0x02#8) : decodeWord w = .ok (.setFan (operand w).toNat) := by
  simp [decodeWord, h]

theorem decodeWord_setMode (h : opcode w = 0x03#8) : decodeWord w = .ok (.setMode (operand w).toNat) := by
  simp [decodeWord, h]

theorem decodeWord_setSwing (h : opcode w = 0x04#8) : decodeWord w = .ok (.setSwing (operand w).toNat) := by
  simp [decodeWord, h]

theorem decodeWord_turnOn (h : opcode w = 0x05#8) (hz : operand w = 0#24) : decodeWord w = .ok .turnOn := by
  simp [decodeWord, h, decodeBare, hz]

theorem decodeWord_turnOff (h : opcode w = 0x06#8) (hz : operand w = 0#24) :
    decodeWord w = .ok .turnOff := by
  simp [decodeWord, h, decodeBare, hz]

theorem decodeWord_readByte (h : opcode w = 0x08#8) (hz : w.extractLsb' 16 16 = 0#16) :
    decodeWord w = .ok (.readByte (w.extractLsb' 8 8).toNat) := by
  simp [decodeWord, h, decodeReadByte, hz]

theorem decodeWord_writeByte (h : opcode w = 0x09#8) (hz : w.extractLsb' 24 8 = 0#8) :
    decodeWord w = .ok (.writeByte (w.extractLsb' 16 8) (w.extractLsb' 8 8).toNat) := by
  simp [decodeWord, h, decodeWriteByte, hz]

end Sys2Proof
end

section
/-! PROOFS. What the frame operations of the AC Protocol State commands write and leave: the field written,
every other byte, every other register, and idempotence as a state. -/

namespace Sys2Proof.Machine

/-! ### Idempotence (20_memory.md R40) -/

namespace Memory

theorem erase_erase_self (m : Memory) (n : Nat) : erase (erase m n) n = erase m n := by
  induction m with
  | nil => rfl
  | cons c rest ih =>
    obtain ⟨a, b⟩ := c
    by_cases h : a = n
    · simpa [erase, h] using ih
    · simp [erase, h, ih]

theorem insert_insert_self (m : Memory) (n : Nat) (v : Byte) :
    insert (insert m n v) n v = insert m n v := by
  induction m with
  | nil => simp [insert]
  | cons c rest ih =>
    obtain ⟨a, b⟩ := c
    simp only [insert]
    split
    · simp [insert]
    · next hlt =>
      split
      · simp [insert]
      · next hne => simp [insert, hlt, hne, ih]

theorem write_write_self {t : List Byte} {m m' : Memory} {n : Nat} {v : Byte}
    (h : write t m n v = some m') : write t m' n v = some m' := by
  obtain ⟨d, hd, ⟨hv, rfl⟩ | ⟨hv, rfl⟩⟩ := write_cases h
  · simp [write, hd, hv, erase_erase_self]
  · simp [write, hd, hv, insert_insert_self]

end Memory

namespace State

@[simp] theorem setCells_cells (s : State) (S : FrameSpace) : s.setCells S (s.cells S) = s := by
  cases S <;> rfl

/-- A frame write repeated on a state whose buffer is as the first one left it changes nothing. -/
theorem memWrite_again {s s' t : State} {S : FrameSpace} {n : Nat} {v : Byte}
    (h : s.memWrite S n v = some s') (ht : t.template S = s'.template S) (hc : t.cells S = s'.cells S) :
    t.memWrite S n v = some t := by
  obtain ⟨m, hm, rfl⟩ := memWrite_cases h
  simp only [setCells_template, setCells_cells_self] at ht hc
  have hset : t.setCells S m = t := by rw [← hc, setCells_cells]
  simp [memWrite, ht, hc, Memory.write_write_self hm, hset]

/-- A field write repeated on such a state changes nothing: it puts the same bits into the byte again. -/
theorem fieldWrite_again {s s' t : State} {S : FrameSpace} {f : Field} {v : Nat}
    (h : s.fieldWrite S f v = some s') (ht : t.template S = s'.template S) (hc : t.cells S = s'.cells S) :
    t.fieldWrite S f v = some t := by
  obtain ⟨b, -, hw⟩ := fieldWrite_cases h
  have hread : t.memRead S f.pos = some (f.insert b v) := by
    rw [← memRead_memWrite_self hw, memRead, memRead, ht, hc]
  simp [fieldWrite, hread, Field.insert_insert, memWrite_again hw ht hc]

/-! ### The power field (40_protocol_state.md R70, R71) -/

theorem writePower_of_some {s : State} {pf : PowerField} (h : s.params.vt.fldPower = some pf)
    (value : PowerField → Nat) : s.writePower value = s.fieldWrite .fn pf.field (value pf) := by
  simp [writePower, h]

theorem writePower_of_none {s : State} (h : s.params.vt.fldPower = none) (value : PowerField → Nat) :
    s.writePower value = some s := by
  simp [writePower, h]

theorem writePower_eq {s s' : State} {value : PowerField → Nat} (h : s.writePower value = some s') :
    s' = { s with fn := s'.fn, ff := s'.ff } := by
  cases hp : s.params.vt.fldPower with
  | some pf => exact fieldWrite_eq (writePower_of_some hp value ▸ h)
  | none => cases (writePower_of_none hp value).symm.trans h; rfl

/-- A power write repeated on a state with the parameters and the normal frame that the first one left
changes nothing. -/
theorem writePower_again {s s' t : State} {value : PowerField → Nat} (h : s.writePower value = some s')
    (hp : t.params = s'.params) (hfn : t.fn = s'.fn) : t.writePower value = some t := by
  have hparams : t.params = s.params := hp.trans (by rw [writePower_eq h])
  cases hpow : s.params.vt.fldPower with
  | some pf =>
    rw [writePower_of_some hpow] at h
    rw [writePower_of_some (hparams ▸ hpow)]
    exact fieldWrite_again h (congrArg (·.vt.frameOn) hp) hfn
  | none => exact writePower_of_none (hparams ▸ hpow) value

/-! ### Frames -/

/-- Where the frame buffers are all that differs, every register and the model's own fields are the same. -/
theorem same_of_frames {s t : State} (h : t = { s with fn := t.fn, ff := t.ff }) :
    s.SameSettings t ∧ t.variant = s.variant ∧ s.SameRun t ∧ s.SameWorld t ∧ t.responses = s.responses := by
  rw [h]
  exact ⟨⟨rfl, rfl, rfl, rfl⟩, rfl, ⟨rfl, rfl, rfl, rfl, rfl, rfl, rfl, rfl⟩, ⟨rfl, rfl, rfl, rfl, rfl⟩, rfl⟩

/-- A read takes the parameters and the buffers alone. -/
theorem sameBytes_of_buffers {s t : State} (hp : t.params = s.params) (hfn : t.fn = s.fn)
    (hff : t.ff = s.ff) : s.SameBytes t := fun S k => by
  cases S <;> simp [memRead, cells, template, hp, hfn, hff]

theorem FieldWritten.of_sameBytes {s s₁ t : State} {f : Field} {v : Nat} (h : s.FieldWritten s₁ f v)
    (ht : s₁.SameBytes t) : s.FieldWritten t f v := by
  obtain ⟨b, hb, hw, hk⟩ := h
  exact ⟨b, hb, (ht _ _).trans hw, fun S k hne => (ht S k).trans (hk S k hne)⟩

theorem fieldWritten_of_fieldWrite {s s' : State} {f : Field} {v : Nat}
    (h : s.fieldWrite .fn f v = some s') : s.FieldWritten s' f v := by
  obtain ⟨b, hb, hw⟩ := fieldWrite_cases h
  exact ⟨b, hb, memRead_memWrite_self hw, memWrite_sameBytesBut hw⟩

end State

end Sys2Proof.Machine
end

section
/-! PROOFS. The setters (40_protocol_state.md R66 to R69): obligations O18 and O19. -/

namespace Sys2Proof.Machine

/-- Settles O18: SET_TEMP completes, and its next state is the field write of the clamped value's code with
TEMP and the response added. -/
theorem setTempClampsAndEncodes : Obligations.SetTempClampsAndEncodes := by
  refine ⟨fun w h => decodeWord_setTemp h, fun s t hp => ?_⟩
  obtain ⟨s', h⟩ := exists_execSetTemp hp t
  obtain ⟨e, s₁, he, hw, rfl⟩ := execSetTemp_cases h
  obtain ⟨⟨-, hfan, hmode, hswing⟩, hvar, hrun, hworld, hresp⟩ :=
    State.same_of_frames (State.fieldWrite_eq hw)
  have hfield := (State.fieldWritten_of_fieldWrite hw).of_sameBytes
    (t := { s₁ with temp := s.clampTemp t }.respond (.temp (s.clampTemp t)))
    (State.sameBytes_of_buffers rfl rfl rfl)
  exact ⟨_, e, h, rfl, he, hfield, congrArg (· ++ _) hresp, hfan, hmode, hswing, hvar, hrun, hworld⟩

/-- A setter that knows the name completes: the code is written into its field and, by `store`, into a
register, the name is answered, and the rest stays. -/
theorem exists_setOption_known {s : State} (hp : s.params.admitted = true) {m : List (Nat × Nat)} {f : Field}
    (hf : f ∈ s.params.vt.fields) {nid c : Nat} (hc : lookupCode m nid = some c)
    {store : State → Nat → State}
    (hst : ∀ t, store t c =
      { t with fan := (store t c).fan, mode := (store t c).mode, swing := (store t c).swing }) :
    ∃ s₁, s.SameSettings s₁ ∧ setOption m f nid store s = .next ((store s₁ c).respond (.name nid)) ∧
      s.OptionSet ((store s₁ c).respond (.name nid)) f nid c := by
  obtain ⟨_, s₁, -, -, hw⟩ := s.admitted_fieldWrite hp hf c
  obtain ⟨hset, hvar, hrun, hworld, hresp⟩ := State.same_of_frames (State.fieldWrite_eq hw)
  have hfield := (State.fieldWritten_of_fieldWrite hw).of_sameBytes
    (t := (store s₁ c).respond (.name nid)) (by rw [hst]; exact State.sameBytes_of_buffers rfl rfl rfl)
  refine ⟨s₁, hset, by simp [setOption, hc, hw], hfield, ?_⟩
  rw [hst]
  exact ⟨hset.1, hvar, hrun, hworld, congrArg (· ++ _) hresp⟩

theorem setOption_unknown {m : List (Nat × Nat)} {nid : Nat} (h : lookupCode m nid = none) (f : Field)
    (store : State → Nat → State) (s : State) :
    setOption m f nid store s = .next (s.answered (.fail (.validation nid))) := by
  simp only [setOption, h]
  rfl

/-- Settles O19: each setter is `setOption` with its own map, field and register. -/
theorem optionSettersEncodeKnownNames : Obligations.OptionSettersEncodeKnownNames := by
  refine ⟨fun w => ⟨decodeWord_setFan, decodeWord_setMode, decodeWord_setSwing⟩, fun s nid hp =>
    ⟨fun c hc => ?_, fun c hc => ?_, fun c hc => ?_, fun hn => setOption_unknown hn _ _ s,
      fun hn => setOption_unknown hn _ _ s, fun hn => setOption_unknown hn _ _ s⟩⟩
  · obtain ⟨s₁, ⟨-, -, hmode, hswing⟩, h, hopt⟩ :=
      exists_setOption_known hp s.params.vt.fldFan_mem hc
        (store := fun t c => { t with fan := c }) fun _ => rfl
    exact ⟨_, h, rfl, hmode, hswing, hopt⟩
  · obtain ⟨s₁, ⟨-, hfan, -, hswing⟩, h, hopt⟩ :=
      exists_setOption_known hp s.params.vt.fldMode_mem hc
        (store := fun t c => { t with mode := c }) fun _ => rfl
    exact ⟨_, h, rfl, hfan, hswing, hopt⟩
  · obtain ⟨s₁, ⟨-, hfan, hmode, -⟩, h, hopt⟩ :=
      exists_setOption_known hp s.params.vt.fldSwing_mem hc
        (store := fun t c => { t with swing := c }) fun _ => rfl
    exact ⟨_, h, rfl, hfan, hmode, hopt⟩

end Sys2Proof.Machine
end

section
/-! PROOFS. The power commands (40_protocol_state.md R70, R71): obligations O21 and O22. -/

namespace Sys2Proof.Machine

/-- What a power write followed by a choice of VARIANT and the response leaves. -/
theorem State.powerSet_of_writePower {s s₁ : State} {value : PowerField → Nat}
    (h : s.writePower value = some s₁) (var : Variant) :
    s.PowerSet ({ s₁ with variant := var }.respond .unit) value := by
  obtain ⟨hset, -, hrun, hworld, hresp⟩ := same_of_frames (writePower_eq h)
  have hbytes : s₁.SameBytes ({ s₁ with variant := var }.respond .unit) :=
    sameBytes_of_buffers rfl rfl rfl
  refine ⟨fun pf hpf => ?_, fun hn => ?_, hset, hrun, hworld, congrArg (· ++ _) hresp⟩
  · rw [writePower_of_some hpf] at h
    exact (fieldWritten_of_fieldWrite h).of_sameBytes hbytes
  · cases (writePower_of_none hn value).symm.trans h
    exact hbytes

theorem execTurnOn_again {s s' : State} (h : execTurnOn s = .next s') :
    execTurnOn s' = .next (s'.answered (.ok .unit)) := by
  obtain ⟨s₁, hw, hs⟩ := execTurnOn_cases h
  have hpow : s'.writePower (·.pwrOn) = some s' :=
    State.writePower_again hw (by rw [hs]; rfl) (by rw [hs]; rfl)
  have hvar : s'.variant = .normal := by rw [hs]; rfl
  rw [execTurnOn, hpow, ← hvar]
  rfl

/-- The state TURN_OFF leaves already has the variant it selects. -/
theorem offVariant_of_selected {s t : State} (hp : t.params = s.params) (hv : t.variant = offVariant s) :
    offVariant t = t.variant := by
  rw [offVariant, hp, hv, offVariant]
  split <;> rfl

theorem execTurnOff_again {s s' : State} (h : execTurnOff s = .next s') :
    execTurnOff s' = .next (s'.answered (.ok .unit)) := by
  obtain ⟨s₁, hw, hs⟩ := execTurnOff_cases h
  obtain ⟨-, -, -, ⟨hp, -⟩, -⟩ := State.same_of_frames (State.writePower_eq hw)
  have hpow : s'.writePower (·.pwrOff) = some s' :=
    State.writePower_again hw (by rw [hs]; rfl) (by rw [hs]; rfl)
  have hvar : offVariant s' = s'.variant :=
    offVariant_of_selected (s := s) (by rw [hs]; exact hp) (by rw [hs]; rfl)
  rw [execTurnOff, hpow, hvar]
  rfl

/-- Settles O21: TURN_ON completes as a power write with the normal frame selected, and repeats as one that
changes nothing. -/
theorem turnOnSelectsTheNormalFrame : Obligations.TurnOnSelectsTheNormalFrame := by
  refine ⟨fun w h hz => decodeWord_turnOn h hz, fun s hp => ?_⟩
  obtain ⟨s', h⟩ := exists_execTurnOn hp
  have hagain := execTurnOn_again h
  obtain ⟨s₁, hw, rfl⟩ := execTurnOn_cases h
  exact ⟨_, h, rfl, State.powerSet_of_writePower hw .normal, hagain⟩

/-- Settles O22: TURN_OFF completes as a power write with the variant `offVariant` selected, and repeats as
one that changes nothing. -/
theorem turnOffSelectsTheOffFrame : Obligations.TurnOffSelectsTheOffFrame := by
  refine ⟨fun w h hz => decodeWord_turnOff h hz, fun s hp => ?_⟩
  obtain ⟨s', h⟩ := exists_execTurnOff hp
  have hagain := execTurnOff_again h
  obtain ⟨s₁, hw, rfl⟩ := execTurnOff_cases h
  exact ⟨_, h, fun hs => if_pos hs, fun hn => if_neg (by simp [hn]),
    State.powerSet_of_writePower hw _, hagain⟩

end Sys2Proof.Machine
end

section
/-! PROOFS. The byte accessors (40_protocol_state.md R72, R73): obligations O23 and O24. -/

namespace Sys2Proof.Machine

theorem State.activeSpace_eq (s : State) : s.activeSpace = if s.variant = .normal then .fn else .ff := by
  cases h : s.variant <;> simp [activeSpace, h]

/-- Settles O23: READ_BYTE answers the active byte where there is one, and that is the frame's element. -/
theorem readByteReadsTheActiveFrame : Obligations.ReadByteReadsTheActiveFrame := by
  refine ⟨fun w h hz => decodeWord_readByte h hz, State.activeSpace_eq, fun s n => ?_⟩
  rw [State.frame_length]
  obtain ⟨b, hb, h⟩ | ⟨hb, h⟩ := execReadByte_cases n s
  · refine ⟨fun hn => ⟨b, ?_, h⟩, fun hn => ?_⟩
    · rw [State.frame_getElem?, Nat.sub_add_cancel hn.1]
      exact hb
    · cases hb.symm.trans (State.memRead_eq_none.mpr hn)
  · exact ⟨fun hn => absurd hn (State.memRead_eq_none.mp hb), fun _ => h⟩

/-- Settles O24: WRITE_BYTE is a frame write where the index exists, and raises E_INDEX elsewhere. -/
theorem writeByteWritesTheActiveFrame : Obligations.WriteByteWritesTheActiveFrame := by
  refine ⟨fun w h hz => decodeWord_writeByte h hz, fun s v n => ?_⟩
  rw [State.frame_length]
  obtain ⟨s₁, hw, h⟩ | ⟨hw, h⟩ := execWriteByte_cases v n s
  · refine ⟨fun _ => ?_, fun hn => ?_⟩
    · obtain ⟨hset, hvar, hrun, hworld, hresp⟩ := State.same_of_frames (State.memWrite_eq hw)
      exact ⟨_, h, (s₁.respond_memRead ..).trans (State.memRead_memWrite_self hw),
        fun S k hk => (s₁.respond_memRead ..).trans (State.memRead_memWrite_ne hw hk),
        hset, hvar, hrun, hworld, congrArg (· ++ _) hresp⟩
    · cases hw.symm.trans (State.memWrite_eq_none.mpr hn)
  · exact ⟨fun hn => absurd hn (State.memWrite_eq_none.mp hw), fun _ => h⟩

end Sys2Proof.Machine
end

section
/-! PROOFS. No run register, event or outbound command (40_protocol_state.md R74): obligation O25. -/

namespace Sys2Proof.Machine

/-- Settles O25, from what a command can do: only SEND_WAVE starts a run, only an outbound command is issued,
and any other writes settings, VARIANT, frames and responses alone. -/
theorem frameCommandsNeverTransmit : Obligations.FrameCommandsNeverTransmit := by
  intro i s s' hin hne h
  obtain ⟨r, hs, -⟩ | ⟨hwave, -⟩ | ⟨c, -, -, -, -, hout⟩ := exec_cases h
  · rw [hs]
    exact ⟨⟨rfl, rfl, rfl, rfl, rfl, rfl, rfl, rfl⟩, ⟨rfl, rfl, rfl, rfl, rfl⟩⟩
  · exact absurd hwave hne
  · cases hin.symm.trans hout

end Sys2Proof.Machine
end

section
/-! PROOFS. The checksum as a sum over indices (41_checksum.md R76, R78): obligation O27. -/

namespace Sys2Proof.Machine

/-- The slice CK_LO..CK_HI, read place by place with the spec's 1-based index. -/
theorem slice_eq_map_range' {F : List Byte} {lo hi : Nat} (hlo : 1 ≤ lo) (hhi : hi ≤ F.length) :
    slice F (lo - 1) hi = (List.range' lo (hi + 1 - lo)).map fun k => F.getD (k - 1) 0#8 := by
  refine List.ext_getElem (by simp [slice]; omega) fun i _ h => ?_
  have hlen : lo - 1 + i < F.length := by simp at h; omega
  simp [slice, Nat.sub_add_comm hlo, List.getElem?_eq_getElem hlen]

/-- The model's sum of a slice is the sum over the indices CK_LO..CK_HI, since Mathlib lists `Finset.Icc` as the
same `List.range'`. -/
theorem checksumSum_eq_sum_Icc {vt : VendorTable} {F : List Byte} (hlo : 1 ≤ vt.ckLo)
    (hhi : vt.ckHi ≤ F.length) :
    checksumSum vt F = ∑ k ∈ Finset.Icc vt.ckLo vt.ckHi, (F.getD (k - 1) 0#8).toNat := by
  rw [checksumSum, slice_eq_map_range' hlo hhi, List.map_map]
  rfl

/-- The Euclidean remainder as a byte is the wrap of an integer to eight bits. -/
theorem euclidByte_eq_ofInt (x : Int) : euclidByte x = BitVec.ofInt 8 x := by
  apply BitVec.eq_of_toNat_eq
  rw [euclidByte, BitVec.toNat_ofNat, BitVec.toNat_ofInt]
  omega

theorem checksum_of_length_ne {vt : VendorTable} {F : List Byte} (h : F.length ≠ vt.ckLen) :
    checksum vt F = none := if_pos h

theorem checksum_negsum {vt : VendorTable} {F : List Byte} (h : F.length = vt.ckLen)
    (hk : vt.ckKind = .negsum) :
    checksum vt F = some (BitVec.ofInt 8 ((vt.ckConst : Int) - (checksumSum vt F : Int))) := by
  simp [checksum, h, hk, euclidByte_eq_ofInt]

theorem checksum_sum {vt : VendorTable} {F : List Byte} (h : F.length = vt.ckLen)
    (hk : vt.ckKind = .sum) : checksum vt F = some (BitVec.ofNat 8 (checksumSum vt F)) := by
  simp [checksum, h, hk, euclidByte_eq_ofInt]

/-- Settles O27, one equation of `checksum` per clause; the slice it sums is the range of indices. -/
theorem checksumSumsTheRange : Obligations.ChecksumSumsTheRange := by
  intro vt F hlo _ hhi
  have hsum (h : F.length = vt.ckLen) := checksumSum_eq_sum_Icc hlo (hhi.trans_eq h.symm)
  refine ⟨checksum_of_length_ne, fun h hk => ?_, fun h hk => ?_⟩
  · rw [← hsum h, checksum_negsum h hk]
  · rw [← hsum h, checksum_sum h hk]

end Sys2Proof.Machine
end

section
/-! PROOFS. The length of a pulse train (42_pulse_train.md R84): obligation O30. -/

namespace Sys2Proof.Machine

/-- Each byte of a frame adds its eight bits and their gaps to the train (42_pulse_train.md R83). -/
@[simp] theorem flatMap_encodeByte_length (vt : VendorTable) (F : List Byte) :
    (F.flatMap (encodeByte vt)).length = 16 * F.length := by
  induction F with
  | nil => rfl
  | cons b F ih =>
    rw [List.flatMap_cons, List.length_append, encodeByte_length, ih, List.length_cons]
    omega

/-- Settles O30: the header is three durations, and the bytes give sixteen each. -/
theorem pulseTrainLength : Obligations.PulseTrainLength := by
  intro vt F
  rw [encodeFrame, List.length_append, flatMap_encodeByte_length]
  rfl

end Sys2Proof.Machine
end

section
/-! PROOFS. The end of a wave (44_wave_assembler.md R98, R99): obligation O35. -/

namespace Sys2Proof.Machine

theorem assemble_length (p : Params) (train : List Nat) :
    (assemble p train).length = (assembleFrom p true train).length + 2 := by
  rw [assemble, List.length_append, waveTail_length]

/-- After the instructions of the train come the terminal ones. -/
theorem assemble_getElem?_add (p : Params) (train : List Nat) (k : Nat) :
    (assemble p train)[(assembleFrom p true train).length + k]? = (waveTail p)[k]? := by
  rw [assemble, List.getElem?_append_right (Nat.le_add_right ..), Nat.add_sub_cancel_left]

/-- Settles O35: the last two places of a wave are those of its terminal part. That the train is not empty
is not used, since an empty train's wave is the terminal part alone. -/
theorem waveEndsDeasserted : Obligations.WaveEndsDeasserted := by
  intro p train _
  rw [assemble_length]
  exact ⟨assemble_getElem?_add p train 0, assemble_getElem?_add p train 1⟩

end Sys2Proof.Machine
end

section
/-! PROOFS. How the driver's commands are issued and completed (45_transmission_driver.md R106 to R108): the
step in which a completion lands, and what it makes of the state, one equation a phase. -/

namespace Sys2Proof.Machine

/-- An issue step adds its event and sets AWAIT (R106). -/
theorem issueIn_eq {ph : Phase} {s : State} (c : Outbound) (hph : s.phase = ph) (ha : s.await = false) :
    issueIn ph c s = .next { s with await := true, trace := s.trace ++ [.issue c] } :=
  issueIn_next_iff.mpr ⟨⟨hph, ha⟩, rfl⟩

/-- A completion at the head of the schedule lands in one step while a command is outstanding (R107, R108). -/
theorem step_complete {s s' : State} {c : Completion} {rest : List Move} (hp : s.params.admitted = true)
    (ha : s.await = true) (hpend : s.pending = .complete c :: rest)
    (hc : { s with pending := rest }.completed c = some s') : step s = .next s' := by
  rw [step_cons hp hpend]
  exact complete_next_iff.mpr ⟨ha, hc⟩

namespace State

variable {s : State}

/-- A run that ends just after an event landed signals DONE next to it (R105, R116). -/
theorem finish_landed (s : State) (e : Event) (r : RunResult) (ph : Phase) :
    (s.landed e).finish r ph =
      { s with await := false, phase := ph, result := r, trace := s.trace ++ [e, .done r s.ckskip] } := by
  simp [finish, landed, record]

/-- A failure ends the run with the tag of the phase's command (R108). -/
theorem completed_fail {tag : Byte} (h : s.phase.tag = some tag) (err : Nat) :
    s.completed (.fail err) = some { s with
      await := false, phase := .doneFail, result := .fail (.hw tag err)
      trace := s.trace ++ [.cmplFail err, .done (.fail (.hw tag err)) s.ckskip] } := by
  simp [completed, h, failRun, finish_landed]

theorem completed_modeset (h : s.phase = .modeset) :
    s.completed (.ok .unit) = some (s.landed (.cmplOk .unit)).modeSetDone := by
  simp [completed, succeed, h]

theorem completed_clear (h : s.phase = .clear) :
    s.completed (.ok .unit) = some (s.landed (.cmplOk .unit)).waveClearDone := by
  simp [completed, succeed, h]

theorem completed_add (h : s.phase = .add) :
    s.completed (.ok .unit) = some (s.landed (.cmplOk .unit)).waveAddPulseDone := by
  simp [completed, succeed, h]

/-- The handle is recorded, and the next chunk is added while there is one (R113). -/
theorem completed_create_more (h : s.phase = .create) (hmore : s.ci + 1 < s.nch) (k : Nat) :
    s.completed (.ok (.handle k)) = some { s with
      await := false, phase := .add, ci := s.ci + 1, handles := s.handles ++ [k]
      trace := s.trace ++ [.cmplOk (.handle k)] } := by
  simp [completed, succeed, h, waveCreateDone, hmore, landed, record]

/-- The handle is recorded, and after the last chunk the handles are chained (R113). -/
theorem completed_create_last (h : s.phase = .create) (hlast : ¬ s.ci + 1 < s.nch) (k : Nat) :
    s.completed (.ok (.handle k)) = some { s with
      await := false, phase := .chain, handles := s.handles ++ [k]
      trace := s.trace ++ [.cmplOk (.handle k)] } := by
  simp [completed, succeed, h, waveCreateDone, hlast, landed, record]

theorem completed_chain (h : s.phase = .chain) :
    s.completed (.ok .unit) = some (s.landed (.cmplOk .unit)).waveChainTxDone := by
  simp [completed, succeed, h]

/-- The run ends OK (R115). -/
theorem completed_deact (h : s.phase = .deact) :
    s.completed (.ok .unit) = some { s with
      await := false, phase := .doneOk, result := .ok
      trace := s.trace ++ [.cmplOk .unit, .done .ok s.ckskip] } := by
  simp [completed, succeed, h, writeDone, finish_landed]

end State

end Sys2Proof.Machine
end

section
/-! PROOFS. SEND_WAVE's acceptance of one run (45_transmission_driver.md R104): the checksum stage, the run
registers, the start of the run, and obligation O39. -/

namespace Sys2Proof

theorem decodeWord_sendWave {w : Word} (h : opcode w = 0x07#8) (hz : operand w = 0#24) :
    decodeWord w = .ok .sendWave := by
  simp [decodeWord, h, decodeBare, hz]

end Sys2Proof

namespace Sys2Proof.Machine

/-- No run is in flight at rest: before the first run and after the end of one. -/
theorem Phase.inFlight_eq_false_iff {ph : Phase} :
    ph.inFlight = false ↔ ph ∈ [.idle, .doneOk, .doneFail] := by
  cases ph <;> decide

theorem execSendWave_busy {s : State} (h : s.phase.inFlight = true) :
    execSendWave s = .next (s.answered (.fail .busy)) := if_pos h

theorem execSendWave_accepted {s s₁ : State} (h : s.phase.inFlight = false)
    (hw : s.writeChecksum = some s₁) :
    execSendWave s = .next (s₁.loadRun.startRun.respond .accepted) := by
  simp [execSendWave, h, hw]

/-- The checksum stage keeps every register but CKSKIP. -/
theorem writeChecksum_same {s s₁ : State} (h : s.writeChecksum = some s₁) :
    s.SameSettings s₁ ∧ s₁.variant = s.variant ∧ s.SameWorld s₁ ∧ s₁.responses = s.responses := by
  rw [writeChecksum_eq h]
  exact ⟨⟨rfl, rfl, rfl, rfl⟩, rfl, ⟨rfl, rfl, rfl, rfl, rfl⟩, rfl⟩

/-- Where there is a checksum, it is the one byte of the active frame that the stage changes (41_checksum.md
R79). -/
theorem writeChecksum_of_some {s s₁ : State} (h : s.writeChecksum = some s₁) {c : Byte}
    (hc : s.activeChecksum = some c) :
    s₁.ckskip = false ∧ s₁.memRead s.activeSpace s.params.vt.ckPos = some c ∧
      s.SameBytesBut s₁ s.activeSpace s.params.vt.ckPos := by
  obtain ⟨c', s₂, hc', hm, rfl⟩ | ⟨hn, -⟩ := writeChecksum_cases h
  · cases hc.symm.trans hc'
    have hbytes : s₂.SameBytes { s₂ with ckskip := false } := State.sameBytes_of_buffers rfl rfl rfl
    exact ⟨rfl, (hbytes _ _).trans (State.memRead_memWrite_self hm),
      fun S k hk => (hbytes S k).trans (State.memRead_memWrite_ne hm hk)⟩
  · cases hc.symm.trans hn

/-- Where there is none, the stage leaves both frames (41_checksum.md R79). -/
theorem writeChecksum_of_none {s s₁ : State} (h : s.writeChecksum = some s₁)
    (hc : s.activeChecksum = none) : s₁.ckskip = true ∧ s.SameBytes s₁ := by
  obtain ⟨c, s₂, hc', -⟩ | ⟨-, rfl⟩ := writeChecksum_cases h
  · cases hc.symm.trans hc'
  · exact ⟨rfl, State.sameBytes_of_buffers rfl rfl rfl⟩

namespace State

theorem startRun_absent {s : State} (h : s.hwHandle = .absent) : s.startRun = s.failRun .noHandle := by
  simp [startRun, h]

theorem startRun_present {s : State} (h : s.hwHandle = .present) :
    s.startRun = { s with result := .pending, phase := .waitReady } := by
  simp [startRun, h]

/-- The state after acceptance is the checksum stage's with the run registers loaded from its snapshot, the
response added, and what the start of the run wrote. -/
theorem acceptRun_eq (s : State) : s.loadRun.startRun.respond .accepted =
    { s with
      wave := waveOf s.params (s.frame s.activeSpace)
      nch := chunkCount s.params.chunkSize (waveOf s.params (s.frame s.activeSpace))
      ci := 0, handles := [], await := false
      result := s.loadRun.startRun.result, phase := s.loadRun.startRun.phase
      trace := s.loadRun.startRun.trace, responses := s.responses ++ [.ok .accepted] } := by
  unfold startRun
  split <;> rfl

end State

/-- Settles O39: SEND_WAVE is refused in flight; else the accepted state is the checksum stage's with the run
loaded and started, and each clause is a fact about one of the three. -/
theorem sendWaveAcceptsOneRun : Obligations.SendWaveAcceptsOneRun := by
  refine ⟨fun w h hz => decodeWord_sendWave h hz, fun s hp => ⟨fun hbusy => ?_, fun hrest => ?_⟩⟩
  · rw [← Phase.inFlight_eq_false_iff, Bool.not_eq_false] at hbusy
    exact execSendWave_busy hbusy
  obtain ⟨s₁, hw⟩ := exists_writeChecksum s hp
  have hexec := execSendWave_accepted (Phase.inFlight_eq_false_iff.mpr hrest) hw
  rw [State.acceptRun_eq] at hexec
  obtain ⟨hset, hvar, ⟨hparams, hhandle, hready, htrace, hpend⟩, hresp⟩ := writeChecksum_same hw
  have hwave : waveOf s₁.params (s₁.frame s₁.activeSpace) = waveOf s.params (s₁.frame s.activeSpace) := by
    rw [hparams, s₁.activeSpace_eq, hvar, ← s.activeSpace_eq]
  refine ⟨_, hexec, fun c hc => writeChecksum_of_some (s₁ := s₁) hw hc,
    fun hc => writeChecksum_of_none (s₁ := s₁) hw hc, hwave, ?_, rfl, rfl, rfl, hset, hvar, hparams, hhandle,
    hready, hpend, congrArg (· ++ _) hresp, fun habs => ?_, fun hpres => ?_⟩
  · rw [hparams]
    rfl
  · rw [State.startRun_absent (s := s₁.loadRun) (hhandle.trans habs)]
    exact ⟨rfl, rfl, congrArg (· ++ _) htrace⟩
  · rw [State.startRun_present (s := s₁.loadRun) (hhandle.trans hpres)]
    exact ⟨rfl, rfl, htrace⟩

end Sys2Proof.Machine
end

section
/-! PROOFS. Each outbound command's issue step and its success successor (45_transmission_driver.md R110 to
R115): obligations O41, O42 and O43. -/

namespace Sys2Proof.Machine

/-- Settles O41: each command is an `issueIn` of its phase, and its completion lands in one step. -/
theorem modeSetAndClearIssueAndAdvance : Obligations.ModeSetAndClearIssueAndAdvance := by
  intro s
  exact ⟨issueIn_eq _, issueIn_eq _, fun rest hp ha hpend =>
    ⟨fun hph => step_complete hp ha hpend (State.completed_modeset hph),
      fun hph => step_complete hp ha hpend (State.completed_clear hph)⟩⟩

@[simp] theorem slice_length {α : Type} (xs : List α) (a b : Nat) :
    (slice xs a b).length = min b xs.length - a := by
  rw [slice, List.length_drop, List.length_take]

/-- The last chunk holds what the full ones leave of the wave (R112). -/
theorem chunkOf_last_length {C : Nat} (hC : 1 ≤ C) (wave : List Pulse) :
    (chunkOf C wave (wave.length / C)).length = wave.length % C := by
  have hdiv := Nat.div_add_mod' wave.length C
  have hmod := Nat.mod_lt wave.length hC
  rw [chunkOf, slice_length]
  omega

/-- Settles O42: the two issue steps, the length of the last chunk, and the two completions, WAVE_CREATE's
with the chunk counter compared. -/
theorem addAndCreateIssueAndAdvance : Obligations.AddAndCreateIssueAndAdvance := by
  intro s
  refine ⟨issueIn_eq _, fun hp hci => ?_, issueIn_eq _, fun rest hp ha hph hpend =>
    step_complete hp ha hpend (State.completed_add hph), fun k rest hp ha hph hpend => ?_⟩
  · rw [hci]
    exact chunkOf_last_length (Params.admitted_platform hp).1 s.wave
  · exact ⟨fun hmore => step_complete hp ha hpend
        (State.completed_create_more (s := { s with pending := rest }) hph hmore k),
      fun hlast => step_complete hp ha hpend
        (State.completed_create_last (s := { s with pending := rest }) hph hlast k)⟩

/-- Settles O43: the two issue steps, and the two completions, WRITE's with DONE signalled. -/
theorem chainAndWriteIssueAndFinish : Obligations.ChainAndWriteIssueAndFinish := by
  intro s
  exact ⟨issueIn_eq _, issueIn_eq _, fun rest hp ha hpend =>
    ⟨fun hph => step_complete hp ha hpend (State.completed_chain hph),
      fun hph => step_complete hp ha hpend (State.completed_deact hph)⟩⟩

end Sys2Proof.Machine
end

section
/-! PROOFS. The failure step (45_transmission_driver.md R108), and the tag of an issued command (30_encoding.md
R63): obligation O45. -/

namespace Sys2Proof.Machine

/-- The start of a run adds no event, or DONE alone where there is no handle (R104). -/
theorem State.startRun_trace (s : State) :
    s.startRun.trace = s.trace ∨ ∃ r ck, s.startRun.trace = s.trace ++ [.done r ck] := by
  cases h : s.hwHandle with
  | present => exact .inl (by rw [startRun_present h])
  | absent => exact .inr ⟨_, _, by rw [startRun_absent h, failRun_trace]⟩

/-- SEND_WAVE's acceptance records no issue. -/
theorem acceptRun_trace_ne_issue {s s₁ : State} (hw : s.writeChecksum = some s₁) (c : Outbound) :
    (s₁.loadRun.startRun.respond .accepted).trace ≠ s.trace ++ [.issue c] := by
  obtain ⟨-, -, ⟨-, -, -, htrace, -⟩, -⟩ := writeChecksum_same hw
  have hload : s₁.loadRun.trace = s.trace := htrace
  obtain h | ⟨r, ck, h⟩ := s₁.loadRun.startRun_trace <;> simp [h, hload]

/-- A command that has just been issued is the one of the phase: it carries the phase's tag. -/
theorem issued_tag {i : Instr} {s s' : State} {c : Outbound} (h : exec i s = .next s')
    (htrace : s'.trace = s.trace ++ [.issue c]) : s'.phase.tag = some c.tag := by
  obtain ⟨r, hs, -⟩ | ⟨-, -, s₁, hw, rfl⟩ | ⟨d, -, -, htag, rfl, -⟩ := exec_cases h
  · rw [hs] at htrace
    simp at htrace
  · exact absurd htrace (acceptRun_trace_ne_issue hw c)
  · have hcd : d = c := by simpa using htrace
    exact hcd ▸ htag

/-- Settles O45: a failed completion lands as `failRun` with the phase's tag, which is the tag of the command
issued there. -/
theorem commandFailureEndsTheRun : Obligations.CommandFailureEndsTheRun :=
  ⟨fun s _ err rest hp ha htag hpend =>
    step_complete hp ha hpend (State.completed_fail (s := { s with pending := rest }) htag err),
    fun _ _ _ _ => issued_tag⟩

end Sys2Proof.Machine
end

section
/-! PROOFS. Synchronous failures (60_exceptions.md R122): what answers FAIL has raised it in the state it found;
obligation O53. -/

namespace Sys2Proof.Machine

/-- An outbound command answers nothing (30_encoding.md R57). -/
theorem exec_outbound_responses {i : Instr} {s s' : State} (hi : i.inbound = false)
    (h : exec i s = .next s') : s'.responses = s.responses := by
  obtain ⟨-, -, -, hin⟩ | ⟨rfl, -⟩ | ⟨c, -, -, -, rfl, -⟩ := exec_cases h
  · cases hi.symm.trans hin
  · cases hi
  · rfl

/-- An option setter raises in the state it found, or answers OK. -/
theorem setOption_raises_or_responds {m : List (Nat × Nat)} {f : Field} {nid : Nat}
    {store : State → Nat → State} {s s' : State} (h : setOption m f nid store s = .next s')
    (hst : ∀ t c, (store t c).responses = t.responses) :
    (∃ g, s' = s.raise g) ∨ ∃ v, s'.responses = s.responses ++ [.ok v] := by
  obtain ⟨-, hs⟩ | ⟨c, s₁, -, hw, rfl⟩ := setOption_cases h
  · exact .inl ⟨_, hs⟩
  · exact .inr ⟨_, by rw [State.respond_responses, hst, State.fieldWrite_responses hw]⟩

/-- An inbound command raises in the state it found, or answers OK: no command writes and then fails. -/
theorem exec_inbound_raises_or_responds {i : Instr} {s s' : State} (hi : i.inbound = true)
    (h : exec i s = .next s') : (∃ g, s' = s.raise g) ∨ ∃ v, s'.responses = s.responses ++ [.ok v] := by
  cases i with
  | setTemp | turnOn | turnOff =>
    obtain ⟨_, hr, rfl⟩ := exec_inbound_answers rfl h
    exact .inr ⟨_, hr⟩
  | setFan | setMode | setSwing => exact setOption_raises_or_responds h fun _ _ => rfl
  | sendWave =>
    obtain ⟨-, hs⟩ | ⟨-, s₁, hw, rfl⟩ := execSendWave_cases h
    · exact .inl ⟨_, hs⟩
    · exact .inr ⟨.accepted, by simp [State.writeChecksum_responses hw]⟩
  | readByte n =>
    obtain ⟨b, -, hr⟩ | ⟨-, hr⟩ := execReadByte_cases n s <;> cases hr.symm.trans h
    · exact .inr ⟨_, s.respond_responses _⟩
    · exact .inl ⟨_, rfl⟩
  | writeByte v n =>
    obtain ⟨s₁, hw, hr⟩ | ⟨-, hr⟩ := execWriteByte_cases v n s <;> cases hr.symm.trans h
    · exact .inr ⟨.unit, by simp [State.memWrite_responses hw]⟩
    · exact .inl ⟨_, rfl⟩
  | modeSet | waveClear | waveAddPulse | waveCreate | waveChainTx | write => cases hi

/-- Settles O53: an outbound command answers nothing, and an inbound one that did not raise answered OK. -/
theorem synchronousFailuresChangeNothing : Obligations.SynchronousFailuresChangeNothing := by
  intro i s s' f h hf
  cases hi : i.inbound with
  | false => simp [exec_outbound_responses hi h] at hf
  | true =>
    obtain ⟨g, rfl⟩ | ⟨v, hv⟩ := exec_inbound_raises_or_responds hi h
    · obtain rfl : g = f := by simpa using hf
      rfl
    · simp [hv] at hf

end Sys2Proof.Machine
end

section
/-! PROOFS. The notifications (60_exceptions.md R129, R130): obligation O54. -/

namespace Sys2Proof.Machine

section
variable {s : State} {rest : List Move}

theorem step_readiness (hp : s.params.admitted = true) (h : s.pending = .readiness :: rest) :
    step s = .next { s with pending := rest }.notifyReady := by
  rw [step_cons hp h]
  rfl

theorem step_reconnect (hp : s.params.admitted = true) (h : s.pending = .reconnect :: rest) :
    step s = .next { s with pending := rest }.notifyReconnect := by
  rw [step_cons hp h]
  rfl

/-- A second readiness notification changes nothing (R129). -/
theorem State.notifyReady_of_ready (h : s.ready = true) : s.notifyReady = s := by
  rw [notifyReady, ← h]

end

/-- Settles O54: a notification's step is `notifyReady` or `notifyReconnect` on the schedule's rest. -/
theorem notificationsSetOnlyReady : Obligations.NotificationsSetOnlyReady := by
  intro s rest hp
  refine ⟨step_readiness hp, fun h hready => ?_, step_reconnect hp⟩
  rw [step_readiness hp h, State.notifyReady_of_ready (s := { s with pending := rest }) hready]

end Sys2Proof.Machine
end

section
/-! PROOFS. The state after reset (70_reset_and_hazards.md R141, R143): its buffers are the templates, its codes
are those of the defaults, and a TURN_ON writes what the template holds already; obligations O13 and O56. -/

namespace Sys2Proof

/-- A template holds a value in a field whose byte the field write keeps (10_state.md R20 check 8). -/
theorem Field.holds_iff {f : Field} {t : List Byte} {v : Nat} :
    f.holds t v = true ↔ ∃ b, templateByte t f.pos = some b ∧ f.insert b v = b := by
  unfold holds
  split
  · next b hb => simp [hb]
  · next hn => simp [hn]

/-- A default that passes its check has a code (10_state.md R20 check 7), so the fallback is not taken. -/
theorem VendorTable.checkDefault_code {vt : VendorTable} {m : List (Nat × Nat)} {nid : Nat} {f : Field}
    (h : vt.checkDefault m nid f = true) : lookupCode m nid = some ((lookupCode m nid).getD 0) := by
  obtain ⟨c, -, hc, -⟩ := checkDefault_spec h
  simp [hc]

namespace Machine

/-! ### A buffer that lists no byte -/

namespace Memory

@[simp] theorem read_nil (t : List Byte) (n : Nat) : read t [] n = templateByte t n := by
  unfold read
  split
  · next hn => exact hn.symm
  · next d hd => exact hd.symm

@[simp] theorem bytesFrom_nil (n : Nat) (t : List Byte) : bytesFrom [] n t = t := by
  induction t generalizing n with
  | nil => rfl
  | cons d rest ih => simp [bytesFrom, lookup, ih]

/-- Writing the template's own byte lists nothing. -/
theorem write_nil_template {t : List Byte} {n : Nat} {d : Byte} (h : templateByte t n = some d) :
    write t [] n d = some [] := by
  simp [write, h, erase]

end Memory

namespace State

variable {p : Params} (h : HwHandle)

@[simp] theorem resetOf_cells (S : FrameSpace) : (resetOf p h).cells S = [] := by
  cases S <;> rfl

@[simp] theorem resetOf_memRead (S : FrameSpace) (n : Nat) :
    (resetOf p h).memRead S n = templateByte ((resetOf p h).template S) n := by
  simp [memRead]

/-- FN and FF are the templates (R141). -/
@[simp] theorem resetOf_frame (S : FrameSpace) : (resetOf p h).frame S = (resetOf p h).template S := by
  simp [frame]

theorem resetOf_memWrite_template {S : FrameSpace} {n : Nat} {b : Byte}
    (hb : templateByte ((resetOf p h).template S) n = some b) :
    (resetOf p h).memWrite S n b = some (resetOf p h) := by
  have hset : (resetOf p h).setCells S [] = resetOf p h := by cases S <;> rfl
  simp [memWrite, Memory.write_nil_template hb, hset]

/-- Writing the value that the template's field holds changes nothing. -/
theorem resetOf_fieldWrite_of_holds {f : Field} {v : Nat} (hf : f.holds p.vt.frameOn v = true) :
    (resetOf p h).fieldWrite .fn f v = some (resetOf p h) := by
  obtain ⟨b, hb, hins⟩ := Field.holds_iff.mp hf
  have hread : (resetOf p h).memRead .fn f.pos = some b := (resetOf_memRead h .fn f.pos).trans hb
  simp [fieldWrite, hread, hins, resetOf_memWrite_template (p := p) (S := .fn) h hb]

/-! ### Admitted parameters -/

variable (hp : p.admitted = true)
include hp

/-- The template's power field is on (10_state.md R20 check 8). -/
theorem resetOf_writePower_on : (resetOf p h).writePower (·.pwrOn) = some (resetOf p h) := by
  cases hpow : p.vt.fldPower with
  | some pf =>
    obtain ⟨-, -, -, -, hon⟩ := Params.admitted_defaults hp
    rw [writePower_of_some (s := resetOf p h) hpow]
    exact resetOf_fieldWrite_of_holds h (hon pf hpow)
  | none => exact writePower_of_none hpow _

/-- The code registers hold the codes of the default names (10_state.md R20 check 7). -/
theorem resetOf_codes :
    lookupCode p.vt.fanMap p.vt.defaultFan = some (resetOf p h).fan ∧
      lookupCode p.vt.modeMap p.vt.defaultMode = some (resetOf p h).mode ∧
      lookupCode p.vt.swingMap p.vt.defaultSwing = some (resetOf p h).swing := by
  obtain ⟨-, hfan, hmode, hswing, -⟩ := Params.admitted_defaults hp
  exact ⟨VendorTable.checkDefault_code hfan, VendorTable.checkDefault_code hmode,
    VendorTable.checkDefault_code hswing⟩

end State

theorem buildBlock_of_admitted {p : Params} (hp : p.admitted = true) (h : HwHandle) :
    buildBlock p h = some (State.resetOf p h) := if_pos hp

theorem buildBlock_of_not_admitted {p : Params} (hp : p.admitted = false) (h : HwHandle) :
    buildBlock p h = none := by
  simp [buildBlock, hp]

/-- A TURN_ON at reset adds its response alone (R143). -/
theorem execTurnOn_resetOf {p : Params} (hp : p.admitted = true) (h : HwHandle) :
    execTurnOn (State.resetOf p h) = .next ((State.resetOf p h).answered (.ok .unit)) := by
  rw [execTurnOn, State.resetOf_writePower_on h hp]
  rfl

/-- Settles O13: the block built is `State.resetOf`, whose codes are those of the default names and whose
buffers list no byte; every other register is a field of its definition. -/
theorem resetSetsEveryRegister : Obligations.ResetSetsEveryRegister := by
  refine fun p h => ⟨fun hp => buildBlock_of_not_admitted hp h, fun hp => ?_⟩
  obtain ⟨hfan, hmode, hswing⟩ := State.resetOf_codes h hp
  exact ⟨State.resetOf p h, buildBlock_of_admitted hp h, rfl, rfl, rfl, hfan, hmode, hswing, rfl,
    State.resetOf_frame h .fn, State.resetOf_frame h .ff, rfl, rfl, rfl, rfl, rfl, rfl, rfl, rfl, rfl, rfl⟩

/-- Settles O56: a TURN_ON writes the power field's value that the template holds, and the Fujitsu registers are
those of the names and the template that the source fixes. -/
theorem fujitsuResetState : Obligations.FujitsuResetState := by
  refine ⟨fun p h hp => execTurnOn_resetOf hp h, fun p h hf => ?_⟩
  obtain ⟨hfan, hmode, hswing⟩ := State.resetOf_codes h hf.admitted
  exact ⟨hf.temp, rfl, State.resetOf_frame h .fn, (State.resetOf_memRead h .fn _).trans hf.ckByte,
    ⟨_, hf.mode, hmode⟩, ⟨_, hf.fan, hfan⟩, ⟨_, hf.swing, hswing⟩⟩

end Machine

end Sys2Proof
end

section
/-! PROOFS. Encoding and decoding (30_encoding.md R50 to R56, R63): what the decoder reads from each form, which
words and tags it accepts, and obligations O1, O2 and O3. -/

namespace Sys2Proof

/-! ### The fields of an encoded word -/

/-- A part of a part is a part. -/
theorem extract_extract {m a b c n : Nat} (x : BitVec m) (h : b + n ≤ c) :
    (x.extractLsb' a c).extractLsb' b n = x.extractLsb' (a + b) n := by
  ext j hj
  have hb : b + j < c := by omega
  simp [BitVec.getElem_extractLsb', hb, Nat.add_assoc]

/-- READ_BYTE's index field stands below 16 required zeros (30_encoding.md R51). -/
theorem commandWord_index_fields (z : BitVec 16) (n opc : Byte) :
    (commandWord (z ++ n) opc).extractLsb' 16 16 = z ∧ (commandWord (z ++ n) opc).extractLsb' 8 8 = n := by
  rw [extract_word _ 8 16 (by decide), extract_word _ 0 8 (by decide), operand_commandWord]
  exact ⟨extract_high z n, extract_low z n⟩

/-- WRITE_BYTE's value field stands between its index and 8 required zeros (30_encoding.md R51). -/
theorem commandWord_value_fields (z v n opc : Byte) :
    (commandWord (z ++ v ++ n) opc).extractLsb' 24 8 = z ∧
      (commandWord (z ++ v ++ n) opc).extractLsb' 16 8 = v ∧
      (commandWord (z ++ v ++ n) opc).extractLsb' 8 8 = n := by
  obtain ⟨hzv, hn⟩ := commandWord_index_fields (z ++ v) n opc
  refine ⟨?_, ?_, hn⟩
  · rw [← extract_extract (a := 16) (b := 8) (c := 16) _ (by decide), hzv, extract_high]
  · rw [← extract_extract (a := 16) (b := 0) (c := 16) _ (by decide), hzv, extract_low]

theorem operand_toNat_of_lt {nid : Nat} (opc : Byte) (h : nid < 2 ^ 24) :
    (operand (commandWord (BitVec.ofNat 24 nid) opc)).toNat = nid := by
  rw [operand_commandWord, BitVec.toNat_ofNat, Nat.mod_eq_of_lt h]

theorem byte_toNat_of_lt {n : Nat} (h : n < 2 ^ 8) : (BitVec.ofNat 8 n).toNat = n := by
  rw [BitVec.toNat_ofNat, Nat.mod_eq_of_lt h]

theorem operand_toInt_of_range {t : Int} (opc : Byte) (hlo : -8388608 ≤ t) (hhi : t ≤ 8388607) :
    (operand (commandWord (BitVec.ofInt 24 t) opc)).toInt = t := by
  rw [operand_commandWord, BitVec.toInt_ofInt_eq_self (by decide) (by omega) (by omega)]

/-- Settles O1: the fields that the decoder cuts out of the encoder's word are those that the encoder put in, and
an operand in range survives its field. -/
theorem decodeOfEncode : Obligations.DecodeOfEncode := by
  intro i hi
  cases i with
  | setTemp t =>
    simp only [Instr.wf, Bool.and_eq_true, decide_eq_true_eq] at hi
    rw [encode, decode, decodeWord_setTemp (opcode_commandWord _ _), operand_toInt_of_range _ hi.1 hi.2]
  | setFan nid =>
    rw [encode, decode, decodeWord_setFan (opcode_commandWord _ _), operand_toNat_of_lt _ (of_decide_eq_true hi)]
  | setMode nid =>
    rw [encode, decode, decodeWord_setMode (opcode_commandWord _ _), operand_toNat_of_lt _ (of_decide_eq_true hi)]
  | setSwing nid =>
    rw [encode, decode, decodeWord_setSwing (opcode_commandWord _ _),
      operand_toNat_of_lt _ (of_decide_eq_true hi)]
  | readByte n =>
    obtain ⟨hz, hf⟩ := commandWord_index_fields 0#16 (BitVec.ofNat 8 n) 0x08#8
    rw [encode, decode, decodeWord_readByte (opcode_commandWord _ _) hz, hf,
      byte_toNat_of_lt (of_decide_eq_true hi)]
  | writeByte v n =>
    obtain ⟨hz, hv, hf⟩ := commandWord_value_fields 0#8 v (BitVec.ofNat 8 n) 0x09#8
    rw [encode, decode, decodeWord_writeByte (opcode_commandWord _ _) hz, hv, hf,
      byte_toNat_of_lt (of_decide_eq_true hi)]
  | turnOn | turnOff | sendWave => rfl
  | modeSet | waveClear | waveAddPulse | waveCreate | waveChainTx | write => rfl

/-! ### What the decoder accepts -/

section
variable {w : Word} {i : Instr}

theorem decodeBare_ok {j : Instr} (h : decodeBare j w = .ok i) : i = j ∧ operand w = 0#24 := by
  unfold decodeBare at h
  split at h
  · next hz => exact ⟨(Except.ok.inj h).symm, hz⟩
  · cases h

theorem decodeReadByte_ok (h : decodeReadByte w = .ok i) :
    i = .readByte (w.extractLsb' 8 8).toNat ∧ w.extractLsb' 16 16 = 0#16 := by
  unfold decodeReadByte at h
  split at h
  · next hz => exact ⟨(Except.ok.inj h).symm, hz⟩
  · cases h

theorem decodeWriteByte_ok (h : decodeWriteByte w = .ok i) :
    i = .writeByte (w.extractLsb' 16 8) (w.extractLsb' 8 8).toNat ∧ w.extractLsb' 24 8 = 0#8 := by
  unfold decodeWriteByte at h
  split at h
  · next hz => exact ⟨(Except.ok.inj h).symm, hz⟩
  · cases h

theorem operand_eq_index_fields (w : Word) : operand w = w.extractLsb' 16 16 ++ w.extractLsb' 8 8 := by
  rw [extract_word w 8 16 (by decide), extract_word w 0 8 (by decide)]
  exact (append_extract (n := 16) (m := 8) (operand w)).symm

theorem operand_eq_value_fields (w : Word) :
    operand w = w.extractLsb' 24 8 ++ w.extractLsb' 16 8 ++ w.extractLsb' 8 8 := by
  have hhigh := append_extract (n := 8) (m := 8) (w.extractLsb' 16 16)
  rw [extract_extract _ (by decide), extract_extract _ (by decide)] at hhigh
  rw [operand_eq_index_fields, ← hhigh]

/-- A word that decodes is the one code of an inbound command with operands in range (30_encoding.md R51). -/
theorem decodeWord_ok (h : decodeWord w = .ok i) :
    i.inbound = true ∧ i.wf = true ∧ encode i = .cmd32 w := by
  have code {opd : BitVec 24} {k : Byte} (ho : operand w = opd) (hk : (opcode w).toNat = k.toNat) :
      Code.cmd32 (commandWord opd k) = .cmd32 w := by
    rw [← ho, ← BitVec.eq_of_toNat_eq hk, commandWord_operand_opcode]
  have nid {k : Byte} (hk : (opcode w).toNat = k.toNat) :
      Code.cmd32 (commandWord (BitVec.ofNat 24 (operand w).toNat) k) = .cmd32 w :=
    code (by simp) hk
  unfold decodeWord at h
  split at h
  · next hk =>
    cases h
    refine ⟨rfl, ?_, code (k := 0x01#8) (BitVec.ofInt_toInt).symm hk⟩
    have hlo := BitVec.le_toInt (operand w)
    have hhi := BitVec.toInt_lt (x := operand w)
    simp only [Instr.wf, Bool.and_eq_true, decide_eq_true_eq]
    omega
  · next hk => cases h; exact ⟨rfl, decide_eq_true (operand w).isLt, nid (k := 0x02#8) hk⟩
  · next hk => cases h; exact ⟨rfl, decide_eq_true (operand w).isLt, nid (k := 0x03#8) hk⟩
  · next hk => cases h; exact ⟨rfl, decide_eq_true (operand w).isLt, nid (k := 0x04#8) hk⟩
  · next hk =>
    obtain ⟨rfl, hz⟩ := decodeBare_ok h
    exact ⟨rfl, rfl, code (k := 0x05#8) hz hk⟩
  · next hk =>
    obtain ⟨rfl, hz⟩ := decodeBare_ok h
    exact ⟨rfl, rfl, code (k := 0x06#8) hz hk⟩
  · next hk =>
    obtain ⟨rfl, hz⟩ := decodeBare_ok h
    exact ⟨rfl, rfl, code (k := 0x07#8) hz hk⟩
  · next hk =>
    obtain ⟨rfl, hz⟩ := decodeReadByte_ok h
    refine ⟨rfl, decide_eq_true (w.extractLsb' 8 8).isLt, code (k := 0x08#8) ?_ hk⟩
    rw [operand_eq_index_fields, hz, BitVec.ofNat_toNat, BitVec.setWidth_eq]
  · next hk =>
    obtain ⟨rfl, hz⟩ := decodeWriteByte_ok h
    refine ⟨rfl, decide_eq_true (w.extractLsb' 8 8).isLt, code (k := 0x09#8) ?_ hk⟩
    rw [operand_eq_value_fields, hz, BitVec.ofNat_toNat, BitVec.setWidth_eq]
  · cases h

open Machine in
/-- A tag that decodes is the code of an outbound command, which has a phase (30_encoding.md R63). -/
theorem decodeTag_ok {tag : Byte} (h : decodeTag tag = .ok i) :
    i.inbound = false ∧ i.wf = true ∧ encode i = .out8 tag ∧
      ∃ ph, commandPhase i = some ph ∧ ph.command = some i := by
  have code {k : Byte} (hk : tag.toNat = k.toNat) : Code.out8 k = .out8 tag :=
    congrArg _ (BitVec.eq_of_toNat_eq hk).symm
  unfold decodeTag at h
  split at h
  · next hk => cases h; exact ⟨rfl, rfl, code (k := 0x80#8) hk, _, rfl, rfl⟩
  · next hk => cases h; exact ⟨rfl, rfl, code (k := 0x81#8) hk, _, rfl, rfl⟩
  · next hk => cases h; exact ⟨rfl, rfl, code (k := 0x82#8) hk, _, rfl, rfl⟩
  · next hk => cases h; exact ⟨rfl, rfl, code (k := 0x83#8) hk, _, rfl, rfl⟩
  · next hk => cases h; exact ⟨rfl, rfl, code (k := 0x84#8) hk, _, rfl, rfl⟩
  · next hk => cases h; exact ⟨rfl, rfl, code (k := 0x85#8) hk, _, rfl, rfl⟩
  · cases h

end

/-- Settles O2: either form, by what its decoder accepts. -/
theorem decodedCodeIsItsEncoding : Obligations.DecodedCodeIsItsEncoding := by
  intro c i h
  cases c with
  | cmd32 w => exact (decodeWord_ok h).2
  | out8 tag =>
    obtain ⟨-, hwf, hcode, -⟩ := decodeTag_ok h
    exact ⟨hwf, hcode⟩

/-- Settles O3: each code is a literal that the decoder evaluates. -/
theorem writtenOutWordsDecode : Obligations.WrittenOutWordsDecode := by
  unfold Obligations.WrittenOutWordsDecode
  decide

end Sys2Proof
end

section
/-! PROOFS. Which move a step makes and what it runs (20_memory.md R41, 45_transmission_driver.md R106, R109):
one equation for each move of a block that exists; obligations O5, O6, O7, O14, O40 and O44. -/

namespace Sys2Proof.Machine

theorem commandTurn_ok {w : Word} {i : Instr} (s : State) (h : decodeWord w = .ok i) :
    commandTurn w s = .command i s := by
  simp only [commandTurn, h]

/-- A host's word that decodes runs its command. -/
theorem step_host {s : State} {w : Word} {rest : List Move} {i : Instr} (hp : s.params.admitted = true)
    (hpend : s.pending = .host w :: rest) (hd : decodeWord w = .ok i) :
    step s = exec i { s with pending := rest } := by
  rw [step_cons hp hpend, takeMove, commandTurn_ok _ hd, Fetched.run_command]

theorem step_sequencer {s : State} {rest : List Move} (hp : s.params.admitted = true)
    (hpend : s.pending = .sequencer :: rest) :
    step s = (sequencerTurn { s with pending := rest }).run := step_cons hp hpend

theorem sequencerTurn_waitReady {s : State} (h : s.phase = .waitReady) :
    sequencerTurn s = .other (.next s.leaveWaitReady) := if_pos h

/-- A phase with a command of its own is not WAIT_READY. -/
theorem Phase.ne_waitReady_of_command {ph : Phase} {i : Instr} (h : ph.command = some i) :
    ph ≠ .waitReady := by
  rintro rfl
  cases h

theorem sequencerTurn_command {s : State} {i : Instr} (hc : s.phase.command = some i)
    (ha : s.await = false) : sequencerTurn s = .command i s := by
  simp [sequencerTurn, Phase.ne_waitReady_of_command hc, ha, hc]

/-- The sequencer's turn runs its phase's command while nothing is outstanding (R106). -/
theorem step_sequencer_command {s : State} {i : Instr} {rest : List Move} (hp : s.params.admitted = true)
    (hpend : s.pending = .sequencer :: rest) (hc : s.phase.command = some i) (ha : s.await = false) :
    step s = exec i { s with pending := rest } := by
  rw [step_sequencer hp hpend, sequencerTurn_command (s := { s with pending := rest }) hc ha,
    Fetched.run_command]

theorem State.leaveWaitReady_ready {s : State} (h : s.ready = true) :
    s.leaveWaitReady = { s with phase := .modeset, await := false } := if_pos h

theorem State.leaveWaitReady_unready {s : State} (h : s.ready = false) : s.leaveWaitReady = s := by
  simp [leaveWaitReady, h]

/-- Settles O5: the move at the head of the schedule is the host's turn, which runs what it decodes. -/
theorem stepRunsTheDecodedCommand : Obligations.StepRunsTheDecodedCommand :=
  fun _ _ _ _ hp hpend hd => step_host hp hpend hd

/-- Settles O6: the turn is the sequencer's, scheduled or not, and its command is the phase's. -/
theorem stepRunsThePhaseCommand : Obligations.StepRunsThePhaseCommand := by
  intro s i hp ha hc
  refine ⟨fun hpend => ?_, fun rest hpend => step_sequencer_command hp hpend hc ha⟩
  rw [step_nil hp hpend, sequencerTurn_command hc ha, Fetched.run_command]

/-- Settles O7: the code that the row stands for decodes to the command; a word is then the host's next move, and
a tag the sequencer's next turn in the command's phase. -/
theorem placedCommandRunsNext : Obligations.PlacedCommandRunsNext := by
  intro s i nbits w hp hi
  have hd : decode (tableCode nbits w) = .ok i := by
    unfold decodeTableWord at hi
    split at hi
    · next j hj => rw [hj, Option.some.inj hi]
    · cases hi
  rw [State.withFetchWord]
  generalize tableCode nbits w = c at hd ⊢
  cases c with
  | cmd32 word =>
    obtain ⟨hin, -⟩ := decodeWord_ok hd
    exact ⟨fun _ => step_host (s := s.withCode (.cmd32 word)) hp rfl hd,
      fun hout => absurd (hin.symm.trans hout) (by decide)⟩
  | out8 tag =>
    obtain ⟨hout, -, -, ph, hph, hc⟩ := decodeTag_ok hd
    have hplaced : s.withCode (.out8 tag) =
        { s with pending := .sequencer :: s.pending, phase := ph, await := false } := by
      have ht : decodeTag tag = .ok i := hd
      simp [State.withCode, ht, hph]
    refine ⟨fun hin => absurd (hout.symm.trans hin) (by decide), fun _ => ⟨ph, hph, ?_⟩⟩
    rw [hplaced]
    exact step_sequencer_command
      (s := { s with pending := .sequencer :: s.pending, phase := ph, await := false }) hp rfl hc rfl

/-- Settles O14: the admission check comes before the move. -/
theorem stepRefusesUnbuiltBlocks : Obligations.StepRefusesUnbuiltBlocks :=
  fun _ hp => step_unbuilt (by simp [hp])

/-- Settles O40: the turn in WAIT_READY is `leaveWaitReady`, scheduled or not. -/
theorem waitReadyLeavesOnceReady : Obligations.WaitReadyLeavesOnceReady := by
  intro s hp hph
  refine ⟨fun rest hpend => ?_, fun hpend => ?_⟩
  · rw [step_sequencer hp hpend, sequencerTurn_waitReady (s := { s with pending := rest }) hph,
      Fetched.run_other]
    exact ⟨fun hr => congrArg _ (State.leaveWaitReady_ready (s := { s with pending := rest }) hr),
      fun hr => congrArg _ (State.leaveWaitReady_unready (s := { s with pending := rest }) hr)⟩
  · rw [step_nil hp hpend, sequencerTurn_waitReady hph, Fetched.run_other]
    exact ⟨fun hr => congrArg _ (State.leaveWaitReady_ready hr),
      fun hr => congrArg _ (State.leaveWaitReady_unready hr)⟩

theorem issueIn_not_enabled {ph : Phase} {s : State} (c : Outbound) (h : ¬ (s.phase = ph ∧ s.await = false)) :
    issueIn ph c s = .fault .notEnabled := if_neg h

/-- Settles O44: each outbound command is an `issueIn` of its phase. -/
theorem outboundCommandsIssueOnlyInTheirPhase : Obligations.OutboundCommandsIssueOnlyInTheirPhase :=
  fun _ => ⟨issueIn_not_enabled _, issueIn_not_enabled _, issueIn_not_enabled _, issueIn_not_enabled _,
    issueIn_not_enabled _, issueIn_not_enabled _⟩

/-- Settles O52: each code and each tag is the value its definition gives. -/
theorem failureCodesAndTags : Obligations.FailureCodesAndTags :=
  ⟨fun _ _ => ⟨rfl, rfl, rfl, rfl⟩, fun _ _ => ⟨rfl, rfl⟩,
    fun _ _ _ _ _ => ⟨rfl, rfl, rfl, rfl, rfl, rfl⟩⟩

end Sys2Proof.Machine
end

section
/-! PROOFS. The kinds of step: every step that answers a next state is of one of seven, each with the whole of
what it writes. The invariants of a run follow case by case. -/

namespace Sys2Proof.Machine

/-! ### Issue, acceptance and completion -/

/-- The outbound command that the phase issues, with its argument (45_transmission_driver.md R110 to R115). -/
def State.phaseOutbound (s : State) : Option Outbound :=
  match s.phase with
  | .modeset => some (.modeSet s.params.emitPin .output)
  | .clear => some .waveClear
  | .add => some (.waveAddPulse s.chunk)
  | .create => some .waveCreate
  | .chain => some (.waveChainTx s.handles)
  | .deact => some (.write s.params.emitPin 0)
  | .idle | .waitReady | .doneOk | .doneFail => none

/-- An outbound command that goes on is the phase's, and issues it. -/
theorem exec_outbound_issues {i : Instr} {s s' : State} (hi : i.inbound = false) (h : exec i s = .next s') :
    ∃ c, s.phaseOutbound = some c ∧ s.await = false ∧ s' = s.issue c := by
  have issues {ph : Phase} {c : Outbound} (h : issueIn ph c s = .next s')
      (hc : s.phase = ph → s.phaseOutbound = some c) :
      ∃ c, s.phaseOutbound = some c ∧ s.await = false ∧ s' = s.issue c := by
    obtain ⟨⟨hph, ha⟩, hs⟩ := issueIn_next_iff.mp h
    exact ⟨c, hc hph, ha, hs⟩
  cases i with
  | modeSet => exact issues h fun hph => by simp [State.phaseOutbound, hph]
  | waveClear => exact issues h fun hph => by simp [State.phaseOutbound, hph]
  | waveAddPulse => exact issues h fun hph => by simp [State.phaseOutbound, hph]
  | waveCreate => exact issues h fun hph => by simp [State.phaseOutbound, hph]
  | waveChainTx => exact issues h fun hph => by simp [State.phaseOutbound, hph]
  | write => exact issues h fun hph => by simp [State.phaseOutbound, hph]
  | setTemp | setFan | setMode | setSwing | turnOn | turnOff | sendWave | readByte | writeByte => cases hi

/-- A phase with a command to issue is one of a run in flight. -/
theorem State.inFlight_of_phaseOutbound {s : State} {c : Outbound} (h : s.phaseOutbound = some c) :
    s.phase.inFlight = true := by
  unfold phaseOutbound at h
  cases hph : s.phase <;> simp_all [Phase.inFlight]

/-- No phase's command is a host's. -/
theorem Phase.command_inbound {ph : Phase} {i : Instr} (h : ph.command = some i) : i.inbound = false := by
  cases ph <;> cases h <;> rfl

theorem Phase.inFlight_of_tag {ph : Phase} : ph.tag ≠ none → ph.inFlight = true := by
  cases ph <;> decide

/-- What acceptance leaves but the frames and CKSKIP (45_transmission_driver.md R104). -/
structure State.RunAccepted (s s' : State) : Prop where
  params    : s'.params = s.params
  hwHandle  : s'.hwHandle = s.hwHandle
  settings  : s.SameSettings s'
  variant   : s'.variant = s.variant
  ready     : s'.ready = s.ready
  pending   : s'.pending = s.pending
  responses : s'.responses = s.responses ++ [.ok .accepted]
  await     : s'.await = false
  wave      : ∃ F, s'.wave = waveOf s.params F
  nch       : s'.nch = chunkCount s.params.chunkSize s'.wave
  ci        : s'.ci = 0
  handles   : s'.handles = []
  outcome   :
    (s.hwHandle = .present ∧ s'.phase = .waitReady ∧ s'.result = .pending ∧ s'.trace = s.trace) ∨
    (s.hwHandle = .absent ∧ s'.phase = .doneFail ∧ s'.result = .fail .noHandle ∧
      s'.trace = s.trace ++ [.done (.fail .noHandle) s'.ckskip])

theorem State.runAccepted_of_writeChecksum {s s₁ : State} (hw : s.writeChecksum = some s₁) :
    s.RunAccepted (s₁.loadRun.startRun.respond .accepted) := by
  obtain ⟨hset, hvar, ⟨hparams, hhandle, hready, htrace, hpend⟩, hresp⟩ := writeChecksum_same hw
  rw [acceptRun_eq]
  refine ⟨hparams, hhandle, hset, hvar, hready, hpend, congrArg (· ++ _) hresp, rfl,
    ⟨s₁.frame s₁.activeSpace, by rw [hparams]⟩, by rw [hparams], rfl, rfl, ?_⟩
  cases hh : s.hwHandle with
  | present =>
    rw [startRun_present (s := s₁.loadRun) (hhandle.trans hh)]
    exact .inl ⟨rfl, rfl, rfl, htrace⟩
  | absent =>
    rw [startRun_absent (s := s₁.loadRun) (hhandle.trans hh)]
    exact .inr ⟨rfl, rfl, rfl, congrArg (· ++ _) htrace⟩

/-- The event that records a completion (45_transmission_driver.md R105). -/
def Completion.event : Completion → Event
  | .ok v => .cmplOk v
  | .fail err => .cmplFail err

/-- What every completion does: it lands, clears AWAIT, and leads on in the run or ends it with one DONE
(45_transmission_driver.md R107, R108, R116). -/
theorem completed_frame {c : Completion} {s s' : State} (h : s.completed c = some s') :
    s.phase.inFlight = true ∧ ∃ es,
      s' = { s with await := false, phase := s'.phase, ci := s'.ci, handles := s'.handles, result := s'.result,
                    trace := s.trace ++ c.event :: es } ∧
      ((s'.phase.inFlight = true ∧ es = []) ∨
        (s'.phase.inFlight = false ∧ ∃ r, es = [.done r s.ckskip])) := by
  obtain ⟨err, tag, rfl, htag, rfl⟩ | ⟨k, rfl, hph, rfl⟩ | ⟨rfl, hunit⟩ := completed_cases h
  · refine ⟨Phase.inFlight_of_tag (by simp [htag]), [.done (.fail (.hw tag err)) s.ckskip], ?_,
      .inr ⟨rfl, _, rfl⟩⟩
    rw [State.failRun, State.finish_landed]
    rfl
  · refine ⟨by rw [hph]; rfl, [], ?_⟩
    unfold State.waveCreateDone
    split
    · exact ⟨rfl, .inl ⟨rfl, rfl⟩⟩
    · exact ⟨rfl, .inl ⟨rfl, rfl⟩⟩
  · obtain ⟨hph, rfl⟩ | ⟨hph, rfl⟩ | ⟨hph, rfl⟩ | ⟨hph, rfl⟩ | ⟨hph, rfl⟩ := hunit
    · exact ⟨by rw [hph]; rfl, [], rfl, .inl ⟨rfl, rfl⟩⟩
    · exact ⟨by rw [hph]; rfl, [], rfl, .inl ⟨rfl, rfl⟩⟩
    · exact ⟨by rw [hph]; rfl, [], rfl, .inl ⟨rfl, rfl⟩⟩
    · exact ⟨by rw [hph]; rfl, [], rfl, .inl ⟨rfl, rfl⟩⟩
    · refine ⟨by rw [hph]; rfl, [.done .ok s.ckskip], ?_, .inr ⟨rfl, _, rfl⟩⟩
      rw [State.writeDone, State.finish_landed]
      rfl

/-! ### The kinds of step -/

/-- It is the sequencer's turn: scheduled, or left by an empty schedule (log entry 3). -/
def State.SequencerNext (s : State) : Prop := s.pending = [] ∨ ∃ rest, s.pending = .sequencer :: rest

/-- What a step makes of a state whose schedule moves on: a host's word is answered, or accepts a run; the
sequencer issues its command, or leaves WAIT_READY; the collaborator notifies of readiness, or completes; or the
move has no step. -/
inductive StepKind (s s' : State) : Prop where
  | answered (w : Word) (rest : List Move) (r : Response) (pend : s.pending = .host w :: rest)
      (cause : (∃ i, decodeWord w = .ok i ∧ exec i { s with pending := s.pending.tail } = .next s') ∨
        s' = { s with pending := s.pending.tail }.raise (.illegal w))
      (other : r ≠ .ok .accepted)
      (eq : s' = { s with temp := s'.temp, fan := s'.fan, mode := s'.mode, swing := s'.swing,
                          variant := s'.variant, fn := s'.fn, ff := s'.ff,
                          responses := s.responses ++ [r], pending := s.pending.tail })
  | accepted (w : Word) (rest : List Move) (s₁ : State) (pend : s.pending = .host w :: rest)
      (rests : s.phase.inFlight = false)
      (stage : { s with pending := s.pending.tail }.writeChecksum = some s₁)
      (eq : s' = s₁.loadRun.startRun.respond .accepted)
      (acc : { s with pending := s.pending.tail }.RunAccepted s')
  | issued (c : Outbound) (turn : s.SequencerNext) (cmd : s.phaseOutbound = some c) (await : s.await = false)
      (eq : s' = { s with pending := s.pending.tail }.issue c)
  | leftWaitReady (turn : s.SequencerNext) (phase : s.phase = .waitReady) (ready : s.ready = true)
      (eq : s' = { s with pending := s.pending.tail, phase := .modeset, await := false })
  | notified (rest : List Move) (pend : s.pending = .readiness :: rest)
      (eq : s' = { s with pending := s.pending.tail, ready := true })
  | completed (c : Completion) (rest : List Move) (pend : s.pending = .complete c :: rest)
      (await : s.await = true) (succ : { s with pending := s.pending.tail }.completed c = some s')
  | none (pend : ∀ w rest, s.pending ≠ .host w :: rest) (eq : s' = { s with pending := s.pending.tail })

section
variable {s s' : State}

/-- The host's turn (30_encoding.md R55, R57). -/
theorem StepKind.of_host {w : Word} {rest : List Move} (hpend : s.pending = .host w :: rest)
    (h : (commandTurn w { s with pending := s.pending.tail }).run = .next s') : StepKind s s' := by
  cases hd : decodeWord w with
  | error err =>
    rw [commandTurn_illegal _ hd] at h
    cases h
    exact .answered w rest (.fail (.illegal w)) hpend (.inr rfl) (by simp) rfl
  | ok i =>
    rw [commandTurn_ok _ hd] at h
    obtain ⟨r, hs, hr, -⟩ | ⟨-, hrest, s₁, hw, hs⟩ | ⟨c, -, -, -, -, hout⟩ := exec_cases h
    · exact .answered w rest r hpend (.inl ⟨i, hd, h⟩) hr hs
    · exact .accepted w rest s₁ hpend hrest hw hs (hs ▸ State.runAccepted_of_writeChecksum hw)
    · cases (decodeWord_ok hd).1.symm.trans hout

/-- The sequencer's turn (45_transmission_driver.md R106, R109). -/
theorem StepKind.of_turn (hturn : s.SequencerNext)
    (h : (sequencerTurn { s with pending := s.pending.tail }).run = .next s') : StepKind s s' := by
  have hquiet : ∀ w rest, s.pending ≠ .host w :: rest := fun w rest hpend => by
    obtain hnil | ⟨_, hseq⟩ := hturn
    · cases hpend.symm.trans hnil
    · cases hpend.symm.trans hseq
  obtain ⟨hph, he⟩ | he | ⟨i, hc, ha, he⟩ := sequencerTurn_cases { s with pending := s.pending.tail } <;>
    rw [he] at h
  · cases h
    by_cases hr : s.ready = true
    · exact .leftWaitReady hturn hph hr
        (State.leaveWaitReady_ready (s := { s with pending := s.pending.tail }) hr)
    · exact .none hquiet
        (State.leaveWaitReady_unready (s := { s with pending := s.pending.tail }) (Bool.eq_false_of_not_eq_true hr))
  · cases h
    exact .none hquiet rfl
  · obtain ⟨c, hcmd, -, hs⟩ := exec_outbound_issues (Phase.command_inbound hc) h
    exact .issued c hturn hcmd ha hs

/-- Every step that goes on is of one of these kinds; unlike `step_cases` this says whose turn each is. -/
theorem step_kind (h : step s = .next s') : s.params.admitted = true ∧ StepKind s s' := by
  by_cases hp : s.params.admitted = true
  case neg => rw [step_unbuilt hp] at h; cases h
  refine ⟨hp, ?_⟩
  cases hpend : s.pending with
  | nil =>
    have htail : { s with pending := s.pending.tail } = s := by rw [hpend, List.tail_nil, ← hpend]
    rw [step_nil hp hpend] at h
    exact .of_turn (.inl hpend) (by rwa [htail])
  | cons m rest =>
    have htail : { s with pending := rest } = { s with pending := s.pending.tail } := by
      rw [hpend, List.tail_cons]
    rw [step_cons hp hpend, htail] at h
    cases m with
    | host w => exact .of_host hpend h
    | sequencer => exact .of_turn (.inr ⟨rest, hpend⟩) h
    | readiness => cases h; exact .notified rest hpend rfl
    | reconnect => cases h; exact .none (by simp [hpend]) rfl
    | complete c =>
      obtain ⟨ha, hc⟩ := complete_next_iff.mp h
      exact .completed c rest hpend ha hc

end

end Sys2Proof.Machine
end

section
/-! PROOFS. What every step keeps (10_state.md R18, R31; 45_transmission_driver.md R105, R106, R116): obligations
O12, O49 and O50. -/

namespace Sys2Proof.Machine

/-- Settles O12, by the kinds of step: each writes at most READY = 1 of the four, and appends to the two lists. -/
theorem stepsKeepConstantsAndHistory : Obligations.StepsKeepConstantsAndHistory := by
  intro s s' h
  cases (step_kind h).2 with
  | answered w rest r _ _ _ eq =>
    rw [eq]
    exact ⟨rfl, rfl, List.prefix_rfl, List.prefix_append _ _, id⟩
  | accepted w rest s₁ _ _ _ _ hacc =>
    refine ⟨hacc.params, hacc.hwHandle, ?_, hacc.responses ▸ List.prefix_append _ _, hacc.ready.trans⟩
    obtain ⟨-, -, -, htrace⟩ | ⟨-, -, -, htrace⟩ := hacc.outcome
    · exact htrace ▸ List.prefix_rfl
    · exact htrace ▸ List.prefix_append _ _
  | issued c _ _ _ eq =>
    rw [eq]
    exact ⟨rfl, rfl, List.prefix_append _ _, List.prefix_rfl, id⟩
  | leftWaitReady _ _ _ eq =>
    rw [eq]
    exact ⟨rfl, rfl, List.prefix_rfl, List.prefix_rfl, id⟩
  | none _ eq =>
    rw [eq]
    exact ⟨rfl, rfl, List.prefix_rfl, List.prefix_rfl, id⟩
  | notified rest _ eq =>
    rw [eq]
    exact ⟨rfl, rfl, List.prefix_rfl, List.prefix_rfl, fun _ => rfl⟩
  | completed c rest _ _ succ =>
    obtain ⟨-, es, eq, -⟩ := completed_frame succ
    rw [eq]
    exact ⟨rfl, rfl, List.prefix_append _ _, List.prefix_rfl, id⟩

/-- At rest no command is outstanding. -/
theorem State.RunInv.await_of_rest {s : State} (h : s.RunInv) (hrest : s.phase.inFlight = false) :
    s.await = false := by
  have hph : s.phase = .idle ∨ s.phase = .doneOk ∨ s.phase = .doneFail := by
    simpa using Phase.inFlight_eq_false_iff.mp hrest
  unfold RunInv at h
  obtain hph | hph | hph := hph <;> rw [hph] at h <;> exact h.1

/-- Waiting for readiness, no command is outstanding. -/
theorem State.RunInv.await_of_waitReady {s : State} (h : s.RunInv) (hph : s.phase = .waitReady) :
    s.await = false := by
  unfold RunInv at h
  rw [hph] at h
  exact h.2.1

@[simp] theorem issuesOf_completion (c : Completion) (es : List Event) :
    issuesOf (c.event :: es) = issuesOf es := by cases c <;> rfl

@[simp] theorem completionCount_completion (c : Completion) (es : List Event) :
    completionCount (c.event :: es) = completionCount es + 1 := by cases c <;> rfl

@[simp] theorem doneCount_completion (c : Completion) (es : List Event) :
    doneCount (c.event :: es) = doneCount es := by cases c <;> rfl

/-- Settles O49: an issue sets AWAIT, a completion clears it, and no other step adds either event or changes
AWAIT, which is 0 at rest and in WAIT_READY. -/
theorem atMostOneCommandOutstanding : Obligations.AtMostOneCommandOutstanding := by
  intro s s' hinv h hcount
  cases (step_kind h).2 with
  | answered w rest r _ _ _ eq => rwa [eq]
  | accepted w rest s₁ _ rests _ _ hacc =>
    rw [hinv.run.await_of_rest rests] at hcount
    rw [hacc.await]
    obtain ⟨-, -, -, htrace⟩ | ⟨-, -, -, htrace⟩ := hacc.outcome
    · rwa [htrace]
    · simpa [htrace, issuesOf, completionCount] using hcount
  | issued c _ _ await eq =>
    rw [await] at hcount
    simpa [eq, issuesOf, completionCount] using hcount
  | leftWaitReady _ phase _ eq =>
    rw [hinv.run.await_of_waitReady phase] at hcount
    rwa [eq]
  | none _ eq => rwa [eq]
  | notified rest _ eq => rwa [eq]
  | completed c rest _ await succ =>
    obtain ⟨-, es, eq, hes⟩ := completed_frame succ
    rw [await] at hcount
    rw [eq]
    obtain ⟨-, rfl⟩ | ⟨-, r, rfl⟩ := hes
    · simpa [issuesOf, completionCount] using hcount
    · simpa [issuesOf, completionCount] using hcount

/-- Settles O50: an acceptance starts a run or signals DONE at once, and a completion that leaves the run's
phases signals one DONE. -/
theorem eachRunSignalsOneDone : Obligations.EachRunSignalsOneDone := by
  intro s s' _ h hcount
  cases (step_kind h).2 with
  | answered w rest r _ _ other eq => rw [eq]; simpa [acceptedCount_append, other] using hcount
  | accepted w rest s₁ _ rests _ _ hacc =>
    rw [rests] at hcount
    rw [hacc.responses, acceptedCount_append, if_pos rfl, ← hcount]
    obtain ⟨-, hph, -, htrace⟩ | ⟨-, hph, -, htrace⟩ := hacc.outcome
    · simp [hph, htrace, Phase.inFlight]
    · simp [hph, htrace, Phase.inFlight, doneCount]
  | issued c _ _ _ eq => simpa [eq, doneCount] using hcount
  | leftWaitReady _ phase _ eq => simpa [eq, phase, Phase.inFlight] using hcount
  | none _ eq => rwa [eq]
  | notified rest _ eq => rwa [eq]
  | completed c rest _ _ succ =>
    obtain ⟨hfly, es, eq, hes⟩ := completed_frame succ
    have hfly : s.phase.inFlight = true := hfly
    rw [eq]
    obtain ⟨hph, rfl⟩ | ⟨hph, r, rfl⟩ := hes
    · simpa [hph, hfly, doneCount] using hcount
    · simpa [hph, hfly, doneCount] using hcount

end Sys2Proof.Machine
end

section
/-! PROOFS. The invariant (10_state.md R22 to R28): reset meets it, and every step keeps its two halves, the
settings with their frames and the run registers; obligations O15 and O16. -/

namespace Sys2Proof.Machine

namespace State

/-! ### The settings and the frames -/

/-- The invariant's half about the settings and the frame buffers (10_state.md R22, R23, R24). -/
structure SettingsInv (s : State) : Prop where
  wf      : ∀ S, Memory.wf (s.template S) (s.cells S) = true
  temp    : s.params.vt.tempMin ≤ s.temp ∧ s.temp ≤ s.params.vt.tempMax
  fan     : s.fan ∈ s.params.vt.fanMap.map (·.2)
  mode    : s.mode ∈ s.params.vt.modeMap.map (·.2)
  swing   : s.swing ∈ s.params.vt.swingMap.map (·.2)
  variant : s.variant = .off → s.params.vt.frameOff.isSome = true

theorem inv_iff {s : State} : s.Inv ↔ s.params.admitted = true ∧ s.SettingsInv ∧ s.RunInv := by
  constructor
  · intro h
    exact ⟨h.built, ⟨fun S => by cases S; exacts [h.fnWf, h.ffWf], ⟨h.tempMin, h.tempMax⟩, h.fan, h.mode, h.swing,
      h.variant⟩, h.run⟩
  · rintro ⟨hp, ⟨hwf, ⟨hlo, hhi⟩, hfan, hmode, hswing, hvar⟩, hrun⟩
    exact ⟨hp, hwf .fn, hwf .ff, hlo, hhi, hfan, hmode, hswing, hvar, hrun⟩

variable {s t : State}

/-- The half about the settings reads the parameters, the settings and the buffers alone. -/
theorem SettingsInv.congr (h : s.SettingsInv) (hp : t.params = s.params) (hset : s.SameSettings t)
    (hvar : t.variant = s.variant) (hfn : t.fn = s.fn) (hff : t.ff = s.ff) : t.SettingsInv := by
  obtain ⟨htemp, hfan, hmode, hswing⟩ := hset
  obtain ⟨hwf, h₁, h₂, h₃, h₄, h₅⟩ := h
  refine ⟨fun S => ?_, ?_, ?_, ?_, ?_, ?_⟩
  · have := hwf S
    cases S <;> simpa [template, cells, hp, hfn, hff] using this
  all_goals simpa only [hp, htemp, hfan, hmode, hswing, hvar]

theorem SettingsInv.memWrite {S : FrameSpace} {n : Nat} {v : Byte} (h : s.SettingsInv)
    (hw : s.memWrite S n v = some t) : t.SettingsInv := by
  have hwf := memWrite_wf hw h.wf
  obtain ⟨hset, hvar, -, ⟨hp, -⟩, -⟩ := same_of_frames (memWrite_eq hw)
  obtain ⟨htemp, hfan, hmode, hswing⟩ := hset
  obtain ⟨-, h₁, h₂, h₃, h₄, h₅⟩ := h
  exact ⟨hwf, by simpa only [hp, htemp], by simpa only [hp, hfan], by simpa only [hp, hmode],
    by simpa only [hp, hswing], by simpa only [hp, hvar]⟩

theorem SettingsInv.fieldWrite {S : FrameSpace} {f : Field} {v : Nat} (h : s.SettingsInv)
    (hw : s.fieldWrite S f v = some t) : t.SettingsInv := by
  obtain ⟨b, -, hw⟩ := fieldWrite_cases hw
  exact h.memWrite hw

theorem SettingsInv.writePower {value : PowerField → Nat} (h : s.SettingsInv)
    (hw : s.writePower value = some t) : t.SettingsInv := by
  cases hpow : s.params.vt.fldPower with
  | some pf => exact h.fieldWrite (writePower_of_some hpow value ▸ hw)
  | none => cases (writePower_of_none hpow value).symm.trans hw; exact h

theorem SettingsInv.writeChecksum (h : s.SettingsInv) (hw : s.writeChecksum = some t) : t.SettingsInv := by
  obtain ⟨c, s₁, -, hm, rfl⟩ | ⟨-, rfl⟩ := writeChecksum_cases hw
  · exact (h.memWrite hm).congr rfl ⟨rfl, rfl, rfl, rfl⟩ rfl rfl rfl
  · exact h.congr rfl ⟨rfl, rfl, rfl, rfl⟩ rfl rfl rfl

theorem SettingsInv.raise (h : s.SettingsInv) (f : SyncFailure) : (s.raise f).SettingsInv :=
  h.congr rfl ⟨rfl, rfl, rfl, rfl⟩ rfl rfl rfl

theorem SettingsInv.respond (h : s.SettingsInv) (v : RespValue) : (s.respond v).SettingsInv :=
  h.congr rfl ⟨rfl, rfl, rfl, rfl⟩ rfl rfl rfl

theorem SettingsInv.withTemp {x : Int} (h : s.SettingsInv)
    (hx : s.params.vt.tempMin ≤ x ∧ x ≤ s.params.vt.tempMax) : { s with temp := x }.SettingsInv :=
  ⟨h.wf, hx, h.fan, h.mode, h.swing, h.variant⟩

theorem SettingsInv.withVariant {x : Variant} (h : s.SettingsInv)
    (hx : x = .off → s.params.vt.frameOff.isSome = true) : { s with variant := x }.SettingsInv :=
  ⟨h.wf, h.temp, h.fan, h.mode, h.swing, hx⟩

/-- An accepted run keeps the settings as the checksum stage left them. -/
theorem SettingsInv.acceptRun (h : s.SettingsInv) : (s.loadRun.startRun.respond .accepted).SettingsInv := by
  rw [acceptRun_eq]
  exact h.congr rfl ⟨rfl, rfl, rfl, rfl⟩ rfl rfl rfl

end State

/-- An option setter keeps the settings' half when its register may hold its map's codes. -/
theorem setOption_settingsInv {m : List (Nat × Nat)} {f : Field} {nid : Nat} {store : State → Nat → State}
    {s s' : State} (hs : s.SettingsInv) (h : setOption m f nid store s = .next s')
    (hst : ∀ t c, t.SettingsInv → t.params = s.params → c ∈ m.map (·.2) → (store t c).SettingsInv) :
    s'.SettingsInv := by
  obtain ⟨-, rfl⟩ | ⟨c, s₁, hc, hw, rfl⟩ := setOption_cases h
  · exact hs.raise _
  · have hp : s₁.params = s.params := by rw [State.fieldWrite_eq hw]
    exact (hst s₁ c (hs.fieldWrite hw) hp (lookupCode_code_mem hc)).respond _

/-- A setter's temperature lies within the bounds, an option's code is one of its map, and only a vendor with a
power-off frame gets it selected. -/
theorem exec_inbound_settingsInv {i : Instr} {s s' : State} (hp : s.params.admitted = true)
    (hs : s.SettingsInv) (hi : i.inbound = true) (h : exec i s = .next s') : s'.SettingsInv := by
  cases i with
  | setTemp t =>
    obtain ⟨e, s₁, -, hw, rfl⟩ := execSetTemp_cases h
    have hparams : s₁.params = s.params := by rw [State.fieldWrite_eq hw]
    exact ((hs.fieldWrite hw).withTemp (by rw [hparams]; exact s.clampTemp_bounds hp t)).respond _
  | setFan nid => exact setOption_settingsInv hs h fun t c ht he hc => { ht with fan := by rw [he]; exact hc }
  | setMode nid => exact setOption_settingsInv hs h fun t c ht he hc => { ht with mode := by rw [he]; exact hc }
  | setSwing nid => exact setOption_settingsInv hs h fun t c ht he hc => { ht with swing := by rw [he]; exact hc }
  | turnOn =>
    obtain ⟨s₁, hw, rfl⟩ := execTurnOn_cases h
    exact ((hs.writePower hw).withVariant (x := .normal) nofun).respond _
  | turnOff =>
    obtain ⟨s₁, hw, rfl⟩ := execTurnOff_cases h
    have hparams : s₁.params = s.params := by rw [State.writePower_eq hw]
    refine ((hs.writePower hw).withVariant fun hv => ?_).respond _
    rw [hparams]
    by_contra hn
    exact hn (hs.variant ((if_neg hn).symm.trans hv))
  | sendWave =>
    obtain ⟨-, rfl⟩ | ⟨-, s₁, hw, rfl⟩ := execSendWave_cases h
    · exact hs.raise _
    · exact (hs.writeChecksum hw).acceptRun
  | readByte n =>
    obtain ⟨b, -, hr⟩ | ⟨-, hr⟩ := execReadByte_cases n s <;> cases hr.symm.trans h
    · exact hs.respond _
    · exact hs.raise _
  | writeByte v n =>
    obtain ⟨s₁, hw, hr⟩ | ⟨-, hr⟩ := execWriteByte_cases v n s <;> cases hr.symm.trans h
    · exact (hs.memWrite hw).respond _
    · exact hs.raise _
  | modeSet | waveClear | waveAddPulse | waveCreate | waveChainTx | write => cases hi

theorem step_settingsInv {s s' : State} (hs : s.SettingsInv) (h : step s = .next s') : s'.SettingsInv := by
  obtain ⟨hp, kind⟩ := step_kind h
  have htail : { s with pending := s.pending.tail }.SettingsInv := hs.congr rfl ⟨rfl, rfl, rfl, rfl⟩ rfl rfl rfl
  cases kind with
  | answered w rest r _ cause _ _ =>
    obtain ⟨i, hd, hx⟩ | rfl := cause
    · exact exec_inbound_settingsInv (s := { s with pending := s.pending.tail }) hp htail (decodeWord_ok hd).1 hx
    · exact htail.raise _
  | accepted w rest s₁ _ _ stage eq _ => exact eq ▸ (htail.writeChecksum stage).acceptRun
  | issued c _ _ _ eq => exact eq ▸ htail.congr rfl ⟨rfl, rfl, rfl, rfl⟩ rfl rfl rfl
  | leftWaitReady _ _ _ eq => exact eq ▸ htail.congr rfl ⟨rfl, rfl, rfl, rfl⟩ rfl rfl rfl
  | none _ eq => exact eq ▸ htail
  | notified rest _ eq => exact eq ▸ htail.congr rfl ⟨rfl, rfl, rfl, rfl⟩ rfl rfl rfl
  | completed c rest _ _ succ =>
    obtain ⟨-, es, eq, -⟩ := completed_frame succ
    rw [eq]
    exact htail.congr rfl ⟨rfl, rfl, rfl, rfl⟩ rfl rfl rfl

/-! ### The run registers -/

namespace State

variable {s t : State}

theorem RunLoaded.congr (h : s.RunLoaded) (hres : t.result = s.result) (hh : t.hwHandle = s.hwHandle)
    (hp : t.params = s.params) (hnch : t.nch = s.nch) (hwave : t.wave = s.wave) : t.RunLoaded := by
  obtain ⟨h₁, h₂, h₃, h₄⟩ := h
  exact ⟨by rwa [hres], by rwa [hh], by rwa [hnch, hp, hwave], by rwa [hp, hwave]⟩

/-- The run registers' half reads them, the parameters, the handle and, of READY, only that it is set. -/
theorem RunInv.congr (h : s.RunInv) (hrun : s.SameRun t) (hp : t.params = s.params)
    (hh : t.hwHandle = s.hwHandle) (hr : s.ready = true → t.ready = true) : t.RunInv := by
  obtain ⟨hph, haw, hwave, hnch, hci, hhs, hck, hres⟩ := hrun
  have hload : s.RunLoaded → t.RunLoaded := fun hl => hl.congr hres hh hp hnch hwave
  unfold RunInv at h ⊢
  rw [hph]
  cases hs : s.phase <;> simp only [hs, haw, hwave, hnch, hci, hhs, hck, hres, hp] at h ⊢ <;> tauto

/-- While a run is in flight its chunk counter has a chunk, and it has no more handles than chunks. -/
theorem RunInv.of_inFlight (h : s.RunInv) (hfly : s.phase.inFlight = true) :
    s.RunLoaded ∧ s.ci < s.nch ∧ s.handles.length ≤ s.nch := by
  have hpos : s.RunLoaded → 0 < s.nch := fun hl => by rw [hl.chunks]; exact Nat.succ_pos _
  unfold RunInv at h
  cases hph : s.phase <;> simp only [hph] at h hfly
  case idle | doneOk | doneFail => cases hfly
  case waitReady =>
    obtain ⟨hl, -, hci, hhs⟩ := h
    exact ⟨hl, by rw [hci]; exact hpos hl, by simp [hhs]⟩
  case modeset | clear =>
    obtain ⟨hl, -, hci, hhs⟩ := h
    exact ⟨hl, by rw [hci]; exact hpos hl, by simp [hhs]⟩
  case add | create =>
    obtain ⟨hl, -, hci, hhs⟩ := h
    exact ⟨hl, hci, by omega⟩
  case chain | deact =>
    obtain ⟨hl, -, hci, hhs⟩ := h
    exact ⟨hl, by omega, by omega⟩

/-- An issued command changes AWAIT alone of the run registers, which no phase with a command fixes. -/
theorem RunInv.issue {c d : Outbound} (h : s.RunInv) (hc : s.phaseOutbound = some c) : (s.issue d).RunInv := by
  have hload : s.RunLoaded → (s.issue d).RunLoaded := fun hl => hl.congr rfl rfl rfl rfl rfl
  unfold RunInv at h ⊢
  unfold phaseOutbound at hc
  cases hph : s.phase <;> simp only [hph, issue_phase] at h hc ⊢
  case idle | waitReady | doneOk | doneFail => cases hc
  all_goals exact ⟨hload h.1, h.2⟩

/-- A run accepted waits with its wave loaded, or has failed for want of a handle. -/
theorem RunAccepted.runInv (h : s.RunAccepted t) : t.RunInv := by
  obtain ⟨F, hF⟩ := h.wave
  have htail : waveTail t.params <:+ t.wave := by
    rw [hF, h.params]
    exact waveTail_suffix _ _
  have hnch : t.nch = chunkCount t.params.chunkSize t.wave := by rw [h.params]; exact h.nch
  unfold RunInv
  obtain ⟨hh, hph, hres, -⟩ | ⟨-, hph, hres, -⟩ := h.outcome
  · rw [hph]
    exact ⟨⟨hres, h.hwHandle.trans hh, hnch, htail⟩, h.await, h.ci, h.handles⟩
  · rw [hph]
    exact ⟨h.await, ⟨_, hres⟩, hnch, htail, by rw [h.ci, hnch]; exact Nat.succ_pos _, by simp [h.handles]⟩

/-- Every completion leads to the registers of the next phase, or ends the run. -/
theorem RunInv.completed {c : Completion} (h : s.RunInv) (hc : s.completed c = some t) : t.RunInv := by
  obtain ⟨hl, hlt, hle⟩ := h.of_inFlight (completed_frame hc).1
  obtain ⟨err, tag, -, -, rfl⟩ | ⟨k, rfl, hph, -⟩ | ⟨-, hunit⟩ := completed_cases hc
  · exact ⟨rfl, ⟨_, rfl⟩, hl.chunks, hl.tail, hlt, hle⟩
  · unfold RunInv at h
    rw [hph] at h
    obtain ⟨-, hready, -, hlen⟩ := h
    have hlen' : (s.handles ++ [k]).length = s.ci + 1 := by simp [hlen]
    by_cases hmore : s.ci + 1 < s.nch
    · cases hc.symm.trans (completed_create_more hph hmore k)
      exact ⟨hl.congr rfl rfl rfl rfl rfl, hready, hmore, hlen'⟩
    · cases hc.symm.trans (completed_create_last hph hmore k)
      have hlast : s.ci + 1 = s.nch := by omega
      exact ⟨hl.congr rfl rfl rfl rfl rfl, hready, hlast, hlen'.trans hlast⟩
  · unfold RunInv at h
    obtain ⟨hph, rfl⟩ | ⟨hph, rfl⟩ | ⟨hph, rfl⟩ | ⟨hph, rfl⟩ | ⟨hph, rfl⟩ := hunit <;> rw [hph] at h
    · exact ⟨hl.congr rfl rfl rfl rfl rfl, h.2⟩
    · obtain ⟨-, hready, hci, hhs⟩ := h
      exact ⟨hl.congr rfl rfl rfl rfl rfl, hready, Nat.zero_lt_of_lt hlt, congrArg List.length hhs⟩
    · exact ⟨hl.congr rfl rfl rfl rfl rfl, h.2⟩
    · exact ⟨hl.congr rfl rfl rfl rfl rfl, h.2⟩
    · exact ⟨rfl, rfl, hl.chunks, hl.tail, h.2.2⟩

end State

/-! ### The two halves together -/

/-- The invariant after reset: the settings are the defaults, which lie in their maps and bounds (10_state.md R20
checks 1 and 7), and no run has been accepted. -/
theorem resetOf_inv {p : Params} (h : HwHandle) (hp : p.admitted = true) : (State.resetOf p h).Inv := by
  obtain ⟨hfan, hmode, hswing⟩ := State.resetOf_codes h hp
  refine State.inv_iff.mpr ⟨hp, ⟨fun S => ?_, Params.admitted_bounds hp, lookupCode_code_mem hfan,
    lookupCode_code_mem hmode, lookupCode_code_mem hswing, nofun⟩, rfl, rfl, rfl, rfl, rfl, rfl, rfl⟩
  rw [State.resetOf_cells, Memory.wf_nil]

theorem fixtureParams_admitted : fixtureParams.admitted = true := by decide

/-- Settles O15: the fixture's parameters are admitted ones. -/
theorem resetMeetsTheInvariant : Obligations.ResetMeetsTheInvariant :=
  ⟨fun _ h hp => resetOf_inv h hp, resetOf_inv .present fixtureParams_admitted⟩

/-- Settles O16: a step keeps the settings' half, and by its kind the run registers' half. -/
theorem stepKeepsTheInvariant : Obligations.StepKeepsTheInvariant := by
  intro s s' hinv h
  obtain ⟨hp, hset, hrun⟩ := State.inv_iff.mp hinv
  obtain ⟨hparams, -⟩ := stepsKeepConstantsAndHistory s s' h
  refine State.inv_iff.mpr ⟨hparams ▸ hp, step_settingsInv hset h, ?_⟩
  have htail : { s with pending := s.pending.tail }.RunInv :=
    hrun.congr ⟨rfl, rfl, rfl, rfl, rfl, rfl, rfl, rfl⟩ rfl rfl id
  cases (step_kind h).2 with
  | answered w rest r _ _ _ eq =>
    rw [eq]
    exact hrun.congr ⟨rfl, rfl, rfl, rfl, rfl, rfl, rfl, rfl⟩ rfl rfl id
  | accepted w rest s₁ _ _ _ _ hacc => exact hacc.runInv
  | issued c _ cmd _ eq => exact eq ▸ htail.issue cmd
  | leftWaitReady _ phase ready eq =>
    unfold State.RunInv at hrun
    rw [phase] at hrun
    obtain ⟨hl, -, hci, hhs⟩ := hrun
    rw [eq]
    exact ⟨hl.congr rfl rfl rfl rfl rfl, ready, hci, hhs⟩
  | none _ eq => exact eq ▸ htail
  | notified rest _ eq =>
    rw [eq]
    exact hrun.congr ⟨rfl, rfl, rfl, rfl, rfl, rfl, rfl, rfl⟩ rfl rfl fun _ => rfl
  | completed c rest _ _ succ => exact htail.completed succ

end Sys2Proof.Machine
end

section
/-! PROOFS. The command sequence of a run (45_transmission_driver.md R117): what stands at each place of it, how
many commands a run has issued, and obligation O47. -/

namespace Sys2Proof.Machine

/-- In a list of blocks of one length, block n begins at that many times n. -/
theorem flatMap_getElem?_block {α β : Type} {f : α → List β} {c : Nat} (hf : ∀ a, (f a).length = c)
    {xs : List α} {n j : Nat} {a : α} (hn : xs[n]? = some a) (hj : j < c) :
    (xs.flatMap f)[c * n + j]? = (f a)[j]? := by
  induction xs generalizing n with
  | nil => cases hn
  | cons x xs ih =>
    rw [List.flatMap_cons]
    cases n with
    | zero =>
      obtain rfl : x = a := by simpa using hn
      rw [Nat.mul_zero, Nat.zero_add, List.getElem?_append_left (by rwa [hf])]
    | succ n =>
      rw [Nat.mul_succ, Nat.add_right_comm, List.getElem?_append_right (by rw [hf]; omega), hf,
        Nat.add_sub_cancel]
      exact ih (by simpa using hn)

theorem chunkCommands_getElem? {C : Nat} {wave : List Pulse} {k i j : Nat} (hi : i < k) (hj : j < 2) :
    (chunkCommands C wave k)[2 * i + j]? = [Outbound.waveAddPulse (chunkOf C wave i), .waveCreate][j]? := by
  rw [chunkCommands, flatMap_getElem?_block (c := 2) (fun _ => rfl) (List.getElem?_range hi) hj]

/-- Before the chain the sequence does not read the handles. -/
theorem runCommands_take (p : Params) (wave : List Pulse) {nch n : Nat} (hs hs' : List Nat)
    (hn : n ≤ 2 + 2 * nch) :
    (runCommands p wave nch hs).take n = (runCommands p wave nch hs').take n := by
  have hlen : n ≤ ([Outbound.modeSet p.emitPin .output, .waveClear] ++
      chunkCommands p.chunkSize wave nch).length := by
    simp
    omega
  rw [runCommands, runCommands, List.take_append_of_le_length hlen, List.take_append_of_le_length hlen]

@[simp] theorem runCommands_length (p : Params) (wave : List Pulse) (nch : Nat) (hs : List Nat) :
    (runCommands p wave nch hs).length = 4 + 2 * nch := by
  simp [runCommands]
  omega

/-- A command of the first `n` chunks stands in the sequence two places later. -/
theorem runCommands_getElem?_chunk (p : Params) (wave : List Pulse) {nch k : Nat} (hs : List Nat)
    (hk : k < 2 * nch) : (runCommands p wave nch hs)[2 + k]? = (chunkCommands p.chunkSize wave nch)[k]? := by
  rw [runCommands, List.getElem?_append_left (by simp; omega), List.getElem?_append_right (by simp)]
  simp

/-- The two commands after the chunks. -/
theorem runCommands_getElem?_end (p : Params) (wave : List Pulse) (nch k : Nat) (hs : List Nat) :
    (runCommands p wave nch hs)[2 + 2 * nch + k]? =
      [Outbound.waveChainTx hs, .write p.emitPin 0][k]? := by
  rw [runCommands, List.getElem?_append_right (by simp; omega)]
  congr 1
  simp
  omega

namespace State

variable {s t : State}

/-- A phase's own command stands in the run's sequence where those before it end. -/
theorem RunInv.phaseOutbound_getElem? {c : Outbound} (h : s.RunInv) (hc : s.phaseOutbound = some c) :
    (runCommands s.params s.wave s.nch s.handles)[commandsBefore s.nch s.ci s.phase]? = some c := by
  obtain ⟨-, hlt, -⟩ := h.of_inFlight (inFlight_of_phaseOutbound hc)
  unfold phaseOutbound at hc
  cases hph : s.phase <;> simp only [hph] at hc <;> cases hc
  · rfl
  · rfl
  · rw [commandsBefore, runCommands_getElem?_chunk _ _ _ (by omega)]
    exact chunkCommands_getElem? (j := 0) hlt (by decide)
  · rw [commandsBefore, show 3 + 2 * s.ci = 2 + (2 * s.ci + 1) by omega,
      runCommands_getElem?_chunk _ _ _ (by omega)]
    exact chunkCommands_getElem? (j := 1) hlt (by decide)
  · exact runCommands_getElem?_end _ _ _ 0 _
  · rw [commandsBefore, show 3 + 2 * s.nch = 2 + 2 * s.nch + 1 by omega]
    exact runCommands_getElem?_end _ _ _ 1 _

/-- A run that has not failed has issued the commands before its phase's, and that one while AWAIT is 1. -/
theorem issuedCount_of_ne_doneFail (h : s.phase ≠ .doneFail) :
    s.issuedCount = commandsBefore s.nch s.ci s.phase + if s.await then 1 else 0 := by
  unfold issuedCount
  split
  · next hph _ => exact absurd hph h
  · next hph _ => exact absurd hph h
  · rfl

theorem issuedCount_of_inFlight (h : s.phase.inFlight = true) :
    s.issuedCount = commandsBefore s.nch s.ci s.phase + if s.await then 1 else 0 :=
  issuedCount_of_ne_doneFail fun hph => by rw [hph] at h; cases h

theorem Phase.phaseOfTag_tag {ph : Phase} {tag : Byte} (h : ph.tag = some tag) : phaseOfTag tag = ph := by
  cases ph <;> cases h <;> decide

theorem runIssues_congr (hp : t.params = s.params) (hwave : t.wave = s.wave) (hnch : t.nch = s.nch)
    (hhs : t.handles = s.handles) (hcount : t.issuedCount = s.issuedCount) : t.runIssues = s.runIssues := by
  rw [runIssues, hp, hwave, hnch, hhs, hcount, runIssues]

/-- An issue step adds the phase's command to those issued. -/
theorem runIssues_issue {c : Outbound} (h : s.RunInv) (hc : s.phaseOutbound = some c)
    (ha : s.await = false) : (s.issue c).runIssues = s.runIssues ++ [c] := by
  have hfly := inFlight_of_phaseOutbound hc
  have hnow : s.issuedCount = commandsBefore s.nch s.ci s.phase := by
    rw [issuedCount_of_inFlight hfly, ha]
    rfl
  have hnext : (s.issue c).issuedCount = s.issuedCount + 1 := by
    rw [issuedCount_of_inFlight (s := s.issue c) hfly, hnow]
    rfl
  have hplace := h.phaseOutbound_getElem? hc
  rw [runIssues, hnext, List.take_add_one, runIssues, hnow]
  exact congrArg (_ ++ ·.toList) hplace

/-- A completion adds nothing to the commands issued: the one that completed was the last of them. -/
theorem runIssues_completed {c : Completion} (h : s.RunInv) (ha : s.await = true)
    (hc : s.completed c = some t) : t.runIssues = s.runIssues := by
  have hfly := (completed_frame hc).1
  obtain ⟨-, hlt, -⟩ := h.of_inFlight hfly
  have hnow : s.issuedCount = commandsBefore s.nch s.ci s.phase + 1 := by
    rw [issuedCount_of_inFlight hfly, ha]
    rfl
  have hnext {u : State} (hph : u.phase ≠ .doneFail) (hu : u.await = false)
      (hbefore : commandsBefore u.nch u.ci u.phase = commandsBefore s.nch s.ci s.phase + 1) :
      u.issuedCount = s.issuedCount := by
    rw [issuedCount_of_ne_doneFail hph, hu, hbefore, hnow]
    rfl
  obtain ⟨err, tag, -, htag, rfl⟩ | ⟨k, rfl, hph, -⟩ | ⟨-, hunit⟩ := completed_cases hc
  · refine runIssues_congr rfl rfl rfl rfl ?_
    rw [hnow, ← Phase.phaseOfTag_tag htag]
    rfl
  · rw [hph] at hnext hnow
    by_cases hmore : s.ci + 1 < s.nch
    · cases hc.symm.trans (completed_create_more hph hmore k)
      rw [runIssues, runIssues, hnext (by simp) rfl (by simp only [commandsBefore]; omega)]
      exact runCommands_take _ _ _ _ (by simp only [hnow, commandsBefore]; omega)
    · cases hc.symm.trans (completed_create_last hph hmore k)
      rw [runIssues, runIssues, hnext (by simp) rfl (by simp only [commandsBefore]; omega)]
      exact runCommands_take _ _ _ _ (by simp only [hnow, commandsBefore]; omega)
  · obtain ⟨hph, rfl⟩ | ⟨hph, rfl⟩ | ⟨hph, rfl⟩ | ⟨hph, rfl⟩ | ⟨hph, rfl⟩ := hunit <;> rw [hph] at hnext
    · exact runIssues_congr rfl rfl rfl rfl (hnext nofun rfl rfl)
    · exact runIssues_congr rfl rfl rfl rfl (hnext nofun rfl rfl)
    · exact runIssues_congr rfl rfl rfl rfl (hnext nofun rfl (Nat.add_right_comm 2 1 _))
    · exact runIssues_congr rfl rfl rfl rfl (hnext nofun rfl (Nat.add_right_comm 2 1 _))
    · exact runIssues_congr rfl rfl rfl rfl (hnext nofun rfl (Nat.add_right_comm 3 1 _))

theorem RunAccepted.runIssues (h : s.RunAccepted t) : t.runIssues = [] := by
  obtain ⟨-, hph, -, -⟩ | ⟨-, hph, hres, -⟩ := h.outcome
  · rw [State.runIssues, issuedCount_of_ne_doneFail (by rw [hph]; decide), hph, h.await]
    rfl
  · rw [State.runIssues, issuedCount, hph, hres]
    rfl

end State

/-- Settles O47: an issue step adds the next command, a completion and the end of WAIT_READY add none, and the
steps that leave the run registers alone leave the commands issued. -/
theorem runsFollowTheCommandSequence : Obligations.RunsFollowTheCommandSequence := by
  intro s s' before hinv hseq h
  cases (step_kind h).2 with
  | answered w rest r _ _ _ eq => rw [eq]; exact .inl hseq
  | accepted w rest s₁ _ rests _ _ hacc =>
    refine .inr ⟨rests, by rw [hacc.responses, acceptedCount_append, if_pos rfl], hacc.runIssues, ?_⟩
    obtain ⟨-, -, -, htrace⟩ | ⟨-, -, -, htrace⟩ := hacc.outcome
    · rw [htrace]
    · simp [htrace, issuesOf]
  | issued c _ cmd await eq =>
    left
    rw [eq, State.issue_trace, issuesOf_append, hseq, List.append_assoc]
    exact congrArg (before ++ ·) (State.runIssues_issue hinv.run cmd await).symm
  | leftWaitReady _ phase _ eq =>
    left
    have hcount : s'.issuedCount = s.issuedCount := by
      rw [State.issuedCount_of_ne_doneFail (s := s) (by rw [phase]; decide), phase,
        hinv.run.await_of_waitReady phase, eq]
      rfl
    rw [State.runIssues_congr (by rw [eq]) (by rw [eq]) (by rw [eq]) (by rw [eq]) hcount, eq]
    exact hseq
  | none _ eq => rw [eq]; exact .inl hseq
  | notified rest _ eq => rw [eq]; exact .inl hseq
  | completed c rest _ await succ =>
    left
    have hrun : { s with pending := s.pending.tail }.RunInv :=
      hinv.run.congr ⟨rfl, rfl, rfl, rfl, rfl, rfl, rfl, rfl⟩ rfl rfl id
    have hissues := State.runIssues_completed hrun await succ
    obtain ⟨-, es, eq, hes⟩ := completed_frame succ
    have htrace : issuesOf s'.trace = issuesOf s.trace := by
      rw [eq]
      obtain ⟨-, rfl⟩ | ⟨-, r, rfl⟩ := hes
      · simp [issuesOf]
      · simp [issuesOf]
    rw [htrace, hseq, hissues]
    rfl

end Sys2Proof.Machine
end

section
/-! PROOFS. The agreement of the frame with the registers (10_state.md R26): it holds at reset, a setter renews it,
and what writes elsewhere in the frame keeps it; obligation O17. -/

namespace Sys2Proof

/-- A byte's part under a field's mask decides what the field reads. -/
theorem Field.extract_congr {f : Field} {a b : Byte} (h : a &&& f.mask = b &&& f.mask) :
    f.extract a = f.extract b := by
  rw [extract, h, extract]

/-- The four setting fields. -/
def VendorTable.settingFields (vt : VendorTable) : List Field :=
  [vt.fldTemp, vt.fldFan, vt.fldMode, vt.fldSwing]

theorem VendorTable.mem_fields_of_setting {vt : VendorTable} {f : Field} (h : f ∈ vt.settingFields) :
    f ∈ vt.fields := List.mem_append_left _ h

/-- The setting fields are pairwise disjoint, and the power field is disjoint from each (R20 check 4). -/
theorem Params.admitted_settings_disjoint {p : Params} (h : p.admitted = true) :
    p.vt.settingFields.Pairwise Field.Disjoint ∧
      ∀ pf, p.vt.fldPower = some pf → ∀ f ∈ p.vt.settingFields, pf.field.Disjoint f := by
  obtain ⟨hset, -, hpow⟩ := List.pairwise_append.mp (admitted_disjoint h)
  exact ⟨hset, fun pf hpf f hf => (hpow f hf pf.field (by simp [hpf])).symm⟩

namespace Machine

/-- At reset a field reads the fitting value that the template holds (10_state.md R20 check 8). -/
theorem State.resetOf_fieldRead_of_holds {p : Params} (h : HwHandle) {f : Field} {v : Nat}
    (hold : f.holds p.vt.frameOn v = true) (hfit : f.fits v = true) :
    (State.resetOf p h).fieldRead .fn f = some v := by
  obtain ⟨b, hb, hins⟩ := Field.holds_iff.mp hold
  have hread : (State.resetOf p h).memRead .fn f.pos = some b := (State.resetOf_memRead h .fn f.pos).trans hb
  rw [State.fieldRead_of_memRead hread, ← hins, Field.extract_insert b hfit]

/-- At reset an option's field reads the code of its default name (10_state.md R20 checks 7 and 8). -/
theorem State.resetOf_fieldRead_default {p : Params} (h : HwHandle) {m : List (Nat × Nat)} {nid : Nat} {f : Field}
    (hd : p.vt.checkDefault m nid f = true) (hm : VendorTable.checkMap m f = true) :
    (State.resetOf p h).fieldRead .fn f = some ((lookupCode m nid).getD 0) := by
  obtain ⟨c, b, hc, hb, hins⟩ := VendorTable.checkDefault_spec hd
  rw [hc]
  exact resetOf_fieldRead_of_holds h (Field.holds_iff.mpr ⟨b, hb, hins⟩) ((VendorTable.checkMap_spec hm).2 nid c hc)

theorem State.resetOf_fieldsAgree {p : Params} (h : HwHandle) (hp : p.admitted = true) :
    (State.resetOf p h).FieldsAgree := by
  obtain ⟨hdtemp, hdfan, hdmode, hdswing, -⟩ := Params.admitted_defaults hp
  obtain ⟨hfan, hmode, hswing⟩ := Params.admitted_maps hp
  obtain ⟨hlo, hhi⟩ := Params.admitted_bounds hp
  obtain ⟨e, he, hfit, -⟩ := Params.admitted_temp hp hlo hhi
  simp only [VendorTable.checkDefaultTemp, he] at hdtemp
  exact ⟨⟨e, he, resetOf_fieldRead_of_holds h hdtemp hfit⟩, resetOf_fieldRead_default h hdfan hfan,
    resetOf_fieldRead_default h hdmode hmode, resetOf_fieldRead_default h hdswing hswing⟩

namespace State

variable {s t : State}

/-- The agreement reads the parameters, the settings and the setting fields alone. -/
theorem FieldsAgree.congr (h : s.FieldsAgree) (hp : t.params = s.params) (hset : s.SameSettings t)
    (hf : ∀ f ∈ s.params.vt.settingFields, t.fieldRead .fn f = s.fieldRead .fn f) : t.FieldsAgree := by
  obtain ⟨htemp, hfan, hmode, hswing⟩ := hset
  simp only [VendorTable.settingFields, List.forall_mem_cons] at hf
  obtain ⟨h₁, h₂, h₃, h₄, -⟩ := hf
  obtain ⟨ht, hfa, hmo, hsw⟩ := h
  refine ⟨?_, ?_, ?_, ?_⟩
  · rwa [hp, htemp, h₁]
  · rwa [hp, hfan, h₂]
  · rwa [hp, hmode, h₃]
  · rwa [hp, hswing, h₄]

theorem fieldRead_congr (hp : t.params = s.params) (hfn : t.fn = s.fn) (f : Field) :
    t.fieldRead .fn f = s.fieldRead .fn f := by
  simp [fieldRead, memRead, cells, template, hp, hfn]

theorem FieldsAgree.of_fn (h : s.FieldsAgree) (hp : t.params = s.params) (hset : s.SameSettings t)
    (hfn : t.fn = s.fn) : t.FieldsAgree := h.congr hp hset fun f _ => fieldRead_congr hp hfn f

/-- A byte write keeps the agreement where it keeps what each setting field at its index reads. -/
theorem FieldsAgree.memWrite {S : FrameSpace} {n : Nat} {v : Byte} (h : s.FieldsAgree)
    (hw : s.memWrite S n v = some t)
    (hbits : S = .fn → ∀ f ∈ s.params.vt.settingFields, f.pos = n →
      ∀ b, s.memRead .fn n = some b → v &&& f.mask = b &&& f.mask) : t.FieldsAgree := by
  obtain ⟨hset, -, -, ⟨hp, -⟩, -⟩ := same_of_frames (memWrite_eq hw)
  refine h.congr hp hset fun f hf => ?_
  by_cases hat : FrameSpace.fn = S ∧ f.pos = n
  · obtain ⟨rfl, rfl⟩ := hat
    have hread := memRead_memWrite_self hw
    cases hb : s.memRead .fn f.pos with
    | none => cases hw.symm.trans (memWrite_eq_none.mpr (memRead_eq_none.mp hb))
    | some b =>
      rw [fieldRead_of_memRead hread, fieldRead_of_memRead hb, Field.extract_congr (hbits rfl f hf rfl b hb)]
  · rw [fieldRead, fieldRead, memRead_memWrite_ne hw hat]

/-- A write to a field that is disjoint from the setting fields keeps the agreement. -/
theorem FieldsAgree.fieldWrite_disjoint {f : Field} {v : Nat} (h : s.FieldsAgree)
    (hw : s.fieldWrite .fn f v = some t) (hd : ∀ g ∈ s.params.vt.settingFields, f.Disjoint g) : t.FieldsAgree := by
  obtain ⟨hset, -, -, ⟨hp, -⟩, -⟩ := same_of_frames (fieldWrite_eq hw)
  exact h.congr hp hset fun g hg => fieldRead_fieldWrite_of_disjoint hw (hd g hg)

theorem FieldsAgree.writePower {value : PowerField → Nat} (h : s.FieldsAgree) (hadm : s.params.admitted = true)
    (hw : s.writePower value = some t) : t.FieldsAgree := by
  cases hpow : s.params.vt.fldPower with
  | some pf =>
    exact h.fieldWrite_disjoint (writePower_of_some hpow value ▸ hw)
      ((Params.admitted_settings_disjoint hadm).2 pf hpow)
  | none => cases (writePower_of_none hpow value).symm.trans hw; exact h

/-- The checksum stage writes no setting field: none stands at CK_POS (R20 check 4). -/
theorem FieldsAgree.writeChecksum (h : s.FieldsAgree) (hadm : s.params.admitted = true)
    (hw : s.writeChecksum = some t) : t.FieldsAgree := by
  obtain ⟨c, s₁, -, hm, rfl⟩ | ⟨-, rfl⟩ := writeChecksum_cases hw
  · have hoff : ∀ f ∈ s.params.vt.settingFields, f.pos ≠ s.params.vt.ckPos := fun f hf =>
      (Params.admitted_field hadm (VendorTable.mem_fields_of_setting hf)).2.1
    exact (h.memWrite hm fun _ f hf hpos => absurd hpos (hoff f hf)).of_fn rfl ⟨rfl, rfl, rfl, rfl⟩ rfl
  · exact h.of_fn rfl ⟨rfl, rfl, rfl, rfl⟩ rfl

theorem FieldsAgree.raise (h : s.FieldsAgree) (f : SyncFailure) : (s.raise f).FieldsAgree :=
  h.of_fn rfl ⟨rfl, rfl, rfl, rfl⟩ rfl

theorem FieldsAgree.respond (h : s.FieldsAgree) (v : RespValue) : (s.respond v).FieldsAgree :=
  h.of_fn rfl ⟨rfl, rfl, rfl, rfl⟩ rfl

theorem FieldsAgree.acceptRun (h : s.FieldsAgree) : (s.loadRun.startRun.respond .accepted).FieldsAgree := by
  rw [acceptRun_eq]
  exact h.of_fn rfl ⟨rfl, rfl, rfl, rfl⟩ rfl

end State

/-- A known name's setter keeps the agreement when the register that `store` writes is its field's. -/
theorem setOption_fieldsAgree {m : List (Nat × Nat)} {f : Field} {nid : Nat} {store : State → Nat → State}
    {s s' : State} (hs : s.FieldsAgree) (hm : VendorTable.checkMap m f = true)
    (h : setOption m f nid store s = .next s')
    (hst : ∀ a b c, s.fieldWrite .fn f c = some { s with fn := a, ff := b } →
      { s with fn := a, ff := b }.fieldRead .fn f = some c → (store { s with fn := a, ff := b } c).FieldsAgree) :
    s'.FieldsAgree := by
  obtain ⟨-, rfl⟩ | ⟨c, s₁, hc, hw, rfl⟩ := setOption_cases h
  · exact hs.raise _
  · have hread := State.fieldRead_fieldWrite_self hw ((VendorTable.checkMap_spec hm).2 nid c hc)
    rw [State.fieldWrite_eq hw] at hread ⊢
    exact (hst _ _ c (hw.trans (congrArg some (State.fieldWrite_eq hw))) hread).respond _

/-- Every inbound command keeps the agreement but a WRITE_BYTE that changes a setting bit: a setter writes a
register and its field, which no other setting field overlaps, and the rest of the family writes neither. -/
theorem exec_inbound_fieldsAgree {i : Instr} {s s' : State} (hp : s.params.admitted = true) (hs : s.FieldsAgree)
    (hi : i.inbound = true) (h : exec i s = .next s')
    (hbits : ∀ v n, i = .writeByte v n → s.variant = .off ∨ s.KeepsSettingBits v n) : s'.FieldsAgree := by
  obtain ⟨hdis, -⟩ := Params.admitted_settings_disjoint hp
  simp only [VendorTable.settingFields, List.pairwise_cons, List.forall_mem_cons] at hdis
  obtain ⟨⟨htf, htm, hts, -⟩, ⟨hfm, hfs, -⟩, ⟨hms, -⟩, -⟩ := hdis
  obtain ⟨hfan, hmode, hswing⟩ := Params.admitted_maps hp
  obtain ⟨⟨e, he, hte⟩, hfa, hmo, hsw⟩ := id hs
  cases i with
  | setTemp t =>
    obtain ⟨hlo, hhi⟩ := s.clampTemp_bounds hp t
    obtain ⟨e', he', hfit, -⟩ := Params.admitted_temp hp hlo hhi
    obtain ⟨e, s₁, he, hw, rfl⟩ := execSetTemp_cases h
    cases he.symm.trans he'
    have keeps {g : Field} (hd : s.params.vt.fldTemp.Disjoint g) := State.fieldRead_fieldWrite_of_disjoint hw hd
    have hread := State.fieldRead_fieldWrite_self hw hfit
    rw [State.fieldWrite_eq hw] at keeps hread ⊢
    have hset : { s with temp := s.clampTemp t, fn := s₁.fn, ff := s₁.ff }.FieldsAgree :=
      ⟨⟨_, he', hread⟩, (keeps htf).trans hfa, (keeps htm).trans hmo, (keeps hts).trans hsw⟩
    exact hset.respond _
  | setFan nid =>
    refine setOption_fieldsAgree hs hfan h fun a b c hw hread => ?_
    have keeps {g : Field} (hd : s.params.vt.fldFan.Disjoint g) := State.fieldRead_fieldWrite_of_disjoint hw hd
    exact ⟨⟨e, he, (keeps htf.symm).trans hte⟩, hread, (keeps hfm).trans hmo, (keeps hfs).trans hsw⟩
  | setMode nid =>
    refine setOption_fieldsAgree hs hmode h fun a b c hw hread => ?_
    have keeps {g : Field} (hd : s.params.vt.fldMode.Disjoint g) := State.fieldRead_fieldWrite_of_disjoint hw hd
    exact ⟨⟨e, he, (keeps htm.symm).trans hte⟩, (keeps hfm.symm).trans hfa, hread, (keeps hms).trans hsw⟩
  | setSwing nid =>
    refine setOption_fieldsAgree hs hswing h fun a b c hw hread => ?_
    have keeps {g : Field} (hd : s.params.vt.fldSwing.Disjoint g) := State.fieldRead_fieldWrite_of_disjoint hw hd
    exact ⟨⟨e, he, (keeps hts.symm).trans hte⟩, (keeps hfs.symm).trans hfa, (keeps hms.symm).trans hmo, hread⟩
  | turnOn =>
    obtain ⟨s₁, hw, rfl⟩ := execTurnOn_cases h
    exact (hs.writePower hp hw).of_fn rfl ⟨rfl, rfl, rfl, rfl⟩ rfl
  | turnOff =>
    obtain ⟨s₁, hw, rfl⟩ := execTurnOff_cases h
    exact (hs.writePower hp hw).of_fn rfl ⟨rfl, rfl, rfl, rfl⟩ rfl
  | sendWave =>
    obtain ⟨-, rfl⟩ | ⟨-, s₁, hw, rfl⟩ := execSendWave_cases h
    · exact hs.raise _
    · exact (hs.writeChecksum hp hw).acceptRun
  | readByte n =>
    obtain ⟨b, -, hr⟩ | ⟨-, hr⟩ := execReadByte_cases n s <;> cases hr.symm.trans h
    · exact hs.respond _
    · exact hs.raise _
  | writeByte v n =>
    obtain ⟨s₁, hw, hr⟩ | ⟨-, hr⟩ := execWriteByte_cases v n s <;> cases hr.symm.trans h
    · refine (hs.memWrite hw fun hfn => ?_).respond _
      refine (hbits v n rfl).resolve_left fun hoff => ?_
      rw [s.activeSpace_eq, hoff] at hfn
      cases hfn
    · exact hs.raise _
  | modeSet | waveClear | waveAddPulse | waveCreate | waveChainTx | write => cases hi

/-- Settles O17: reset, and then the kinds of step, of which only a host's word writes a setting or a frame. -/
theorem frameFieldsHoldTheRegisters : Obligations.FrameFieldsHoldTheRegisters := by
  refine ⟨fun p h hp => State.resetOf_fieldsAgree h hp, fun s s' _ hs h hbits => ?_⟩
  obtain ⟨hp, kind⟩ := step_kind h
  have htail : { s with pending := s.pending.tail }.FieldsAgree := hs.of_fn rfl ⟨rfl, rfl, rfl, rfl⟩ rfl
  cases kind with
  | answered w rest r pend cause _ _ =>
    obtain ⟨i, hd, hx⟩ | rfl := cause
    · exact exec_inbound_fieldsAgree (s := { s with pending := s.pending.tail }) hp htail (decodeWord_ok hd).1 hx
        fun v n hi => hbits w rest v n pend (hi ▸ hd)
    · exact htail.raise _
  | accepted w rest s₁ _ _ stage eq _ => exact eq ▸ (htail.writeChecksum hp stage).acceptRun
  | issued c _ _ _ eq => exact eq ▸ htail.of_fn rfl ⟨rfl, rfl, rfl, rfl⟩ rfl
  | leftWaitReady _ _ _ eq => exact eq ▸ htail.of_fn rfl ⟨rfl, rfl, rfl, rfl⟩ rfl
  | none _ eq => exact eq ▸ htail
  | notified rest _ eq => exact eq ▸ htail.of_fn rfl ⟨rfl, rfl, rfl, rfl⟩ rfl
  | completed c rest _ _ succ =>
    obtain ⟨-, es, eq, -⟩ := completed_frame succ
    rw [eq]
    exact htail.of_fn rfl ⟨rfl, rfl, rfl, rfl⟩ rfl

end Machine
end Sys2Proof
end

section
/-! PROOFS. When a step goes on, and what a run does while it waits (45_transmission_driver.md R106, R109,
60_exceptions.md R131, R137, 70_reset_and_hazards.md R148, R149): obligations O55, O58 and O59. -/

namespace Sys2Proof.Machine

/-! ### Steps that go on -/

theorem exists_sequencerTurn (s : State) : ∃ s', (sequencerTurn s).run = .next s' := by
  obtain ⟨-, h⟩ | h | ⟨i, hc, ha, h⟩ := sequencerTurn_cases s <;> rw [h]
  · exact ⟨_, rfl⟩
  · exact ⟨_, rfl⟩
  · obtain ⟨c, hx, -⟩ := exists_issue hc ha
    exact ⟨_, hx⟩

theorem exists_commandTurn {s : State} (hp : s.params.admitted = true) (w : Word) :
    ∃ s', (commandTurn w s).run = .next s' := by
  cases hd : decodeWord w with
  | ok i =>
    rw [commandTurn_ok s hd]
    exact exists_exec_inbound hp (decodeWord_ok hd).1
  | error err =>
    rw [commandTurn_illegal s hd]
    exact ⟨_, rfl⟩

/-- Every move but a completion goes on. -/
theorem exists_step {s : State} (hp : s.params.admitted = true)
    (hnc : ∀ c rest, s.pending ≠ .complete c :: rest) : ∃ s', step s = .next s' := by
  cases hpend : s.pending with
  | nil => rw [step_nil hp hpend]; exact exists_sequencerTurn s
  | cons m rest =>
    rw [step_cons hp hpend]
    cases m with
    | host w => exact exists_commandTurn (s := { s with pending := rest }) hp w
    | sequencer => exact exists_sequencerTurn _
    | readiness => exact ⟨_, rfl⟩
    | reconnect => exact ⟨_, rfl⟩
    | complete c => exact absurd hpend (hnc c rest)

/-! ### Completions that may come -/

/-- A completion has a successor exactly where its value is the command's (R107). -/
theorem State.completed_isSome_iff {s : State} {c : Completion} (ht : s.phase.tag ≠ none) :
    (s.completed c).isSome = true ↔ c.allowedIn s.phase := by
  cases c with
  | fail err =>
    obtain ⟨tag, ht⟩ := Option.ne_none_iff_exists'.mp ht
    simp [completed, ht, Completion.allowedIn]
  | ok v =>
    cases v <;> cases hph : s.phase <;> rw [hph] at ht <;>
      simp_all [completed, succeed, Completion.allowedIn, Phase.tag]

/-- A command is outstanding only in the phases that have one. -/
theorem State.Inv.tag_of_await {s : State} (hinv : s.Inv) (ha : s.await = true) : s.phase.tag ≠ none := by
  intro ht
  have hout : s.phase.inFlight = false ∨ s.phase = .waitReady := by
    revert ht
    cases s.phase <;> decide
  rcases hout with hrest | hwait
  · cases ha.symm.trans (hinv.run.await_of_rest hrest)
  · cases ha.symm.trans (hinv.run.await_of_waitReady hwait)

theorem complete_refused {c : Completion} {s : State} (h : ¬ (s.await = true ∧ (s.completed c).isSome = true)) :
    complete c s = .refused .outsideModel := by
  unfold complete
  split
  · next ha =>
    have hnone : s.completed c = none := by simpa [ha] using h
    rw [hnone]
  · rfl

/-- Settles O55: a move that is no completion goes on, and a completion goes on exactly where its command is
outstanding and its value is the command's. -/
theorem stepStopsOnlyOutsideTheModel : Obligations.StepStopsOnlyOutsideTheModel := by
  intro s hinv
  by_cases hc : ∃ c rest, s.pending = .complete c :: rest
  · obtain ⟨c, rest, hpend⟩ := hc
    have hstep : step s = complete c { s with pending := rest } := step_cons hinv.built hpend
    have hallow : (s.await = true ∧ ({ s with pending := rest }.completed c).isSome = true) ↔
        (s.await = true ∧ c.allowedIn s.phase) :=
      and_congr_right fun ha =>
        State.completed_isSome_iff (s := { s with pending := rest }) (hinv.tag_of_await ha)
    by_cases h : s.await = true ∧ c.allowedIn s.phase
    · obtain ⟨s', hs'⟩ := Option.isSome_iff_exists.mp (hallow.mpr h).2
      rw [step_complete hinv.built h.1 hpend hs']
      refine ⟨nofun, fun r => ⟨nofun, ?_⟩⟩
      rintro ⟨-, c', rest', hpend', hn⟩
      cases hpend.symm.trans hpend'
      exact absurd h hn
    · rw [hstep, complete_refused (s := { s with pending := rest }) (mt hallow.mp h)]
      refine ⟨nofun, fun r => ⟨fun hr => ?_, fun hr => by rw [hr.1]⟩⟩
      cases hr
      exact ⟨rfl, c, rest, hpend, h⟩
  · have hnc : ∀ c rest, s.pending ≠ .complete c :: rest := fun c rest hpend => hc ⟨c, rest, hpend⟩
    obtain ⟨s', hs'⟩ := exists_step hinv.built hnc
    rw [hs']
    exact ⟨nofun, fun r => ⟨nofun, fun ⟨_, c, rest, hpend, _⟩ => absurd hpend (hnc c rest)⟩⟩

/-! ### Runs that wait -/

/-- Settles O58: of the kinds of step, an issue needs AWAIT = 0, an acceptance and the end of WAIT_READY another
phase, and the others leave the run registers and the trace. -/
theorem hungCommandStallsTheRun : Obligations.HungCommandStallsTheRun := by
  intro s hp ha ht hnc
  have hfly : s.phase.inFlight = true := Phase.inFlight_of_tag ht
  obtain ⟨s', h⟩ := exists_step hp hnc
  refine ⟨s', h, ?_⟩
  cases (step_kind h).2 with
  | answered w rest r _ _ _ eq => rw [eq]; exact ⟨rfl, ha, rfl, rfl, execSendWave_busy hfly⟩
  | accepted w rest s₁ _ rests => cases hfly.symm.trans rests
  | issued c _ _ await => cases ha.symm.trans await
  | leftWaitReady _ phase => rw [phase] at ht; exact absurd rfl ht
  | none _ eq => rw [eq]; exact ⟨rfl, ha, rfl, rfl, execSendWave_busy hfly⟩
  | notified rest _ eq => rw [eq]; exact ⟨rfl, ha, rfl, rfl, execSendWave_busy hfly⟩
  | completed c rest pend => exact absurd pend (hnc c rest)

/-- Settles O59: of the kinds of step, an issue and an acceptance need another phase, the end of WAIT_READY needs
READY = 1, and the others leave the run registers and the trace. -/
theorem runWaitsUntilReady : Obligations.RunWaitsUntilReady := by
  intro s hinv hph hr hnr hnc
  have hfly : s.phase.inFlight = true := by rw [hph]; rfl
  have hres : s.result = .pending := (hinv.run.of_inFlight hfly).1.pending
  obtain ⟨s', h⟩ := exists_step hinv.built hnc
  refine ⟨s', h, ?_⟩
  cases (step_kind h).2 with
  | answered w rest r _ _ _ eq => rw [eq]; exact ⟨hph, hr, hres, rfl, execSendWave_busy hfly⟩
  | accepted w rest s₁ _ rests => cases hfly.symm.trans rests
  | issued c _ cmd => simp [State.phaseOutbound, hph] at cmd
  | leftWaitReady _ _ ready => cases hr.symm.trans ready
  | none _ eq => rw [eq]; exact ⟨hph, hr, hres, rfl, execSendWave_busy hfly⟩
  | notified rest pend => exact absurd pend (hnr rest)
  | completed c rest pend => exact absurd pend (hnc c rest)

end Sys2Proof.Machine
end

section
/-! PROOFS. What the sequencer and the collaborator read (20_memory.md R44): their moves commute with a change of
the settings and the frames; obligation O51. -/

namespace Sys2Proof.Machine

/-- The state with the settings, VARIANT and the frames of another. -/
def State.withFrames (s u : State) : State :=
  { s with temp := u.temp, fan := u.fan, mode := u.mode, swing := u.swing, variant := u.variant, fn := u.fn,
           ff := u.ff }

/-- The outcome with the settings, VARIANT and the frames of another state. -/
def resultWithFrames (u : State) : Result → Result
  | .next s => .next (s.withFrames u)
  | .fault f => .fault f
  | .refused r => .refused r

section
variable (s u : State)

theorem issueIn_withFrames (ph : Phase) (c : Outbound) :
    issueIn ph c (s.withFrames u) = resultWithFrames u (issueIn ph c s) := by
  rw [issueIn, issueIn, apply_ite (resultWithFrames u)]
  rfl

/-- An outbound command's argument comes from the run registers and the parameters (30_encoding.md R63). -/
theorem exec_outbound_withFrames {i : Instr} (hi : i.inbound = false) :
    exec i (s.withFrames u) = resultWithFrames u (exec i s) := by
  cases i with
  | modeSet | waveClear | waveAddPulse | waveCreate | waveChainTx | write => exact issueIn_withFrames s u _ _
  | setTemp | setFan | setMode | setSwing | turnOn | turnOff | sendWave | readByte | writeByte => cases hi

theorem leaveWaitReady_withFrames :
    (s.withFrames u).leaveWaitReady = s.leaveWaitReady.withFrames u := by
  cases hr : s.ready with
  | true => rw [State.leaveWaitReady_ready hr, State.leaveWaitReady_ready (s := s.withFrames u) hr]; rfl
  | false => rw [State.leaveWaitReady_unready hr, State.leaveWaitReady_unready (s := s.withFrames u) hr]

/-- The sequencer has no step while it awaits a completion or where its phase has no command (R106). -/
theorem sequencerTurn_none {s : State} (hph : s.phase ≠ .waitReady)
    (h : s.await = true ∨ s.phase.command = none) : sequencerTurn s = .other (.next s) := by
  unfold sequencerTurn
  rw [if_neg hph]
  split
  · rfl
  · next ha => rw [h.resolve_left ha]

theorem sequencerTurn_withFrames :
    (sequencerTurn (s.withFrames u)).run = resultWithFrames u (sequencerTurn s).run := by
  by_cases hph : s.phase = .waitReady
  · rw [sequencerTurn_waitReady hph, sequencerTurn_waitReady (s := s.withFrames u) hph]
    exact congrArg Host.Outcome.next (leaveWaitReady_withFrames s u)
  by_cases hidle : s.await = true ∨ s.phase.command = none
  · rw [sequencerTurn_none hph hidle, sequencerTurn_none (s := s.withFrames u) hph hidle]
    rfl
  · obtain ⟨ha, hc⟩ := not_or.mp hidle
    obtain ⟨i, hc⟩ := Option.ne_none_iff_exists'.mp hc
    have ha : s.await = false := by simpa using ha
    rw [sequencerTurn_command hc ha, sequencerTurn_command (s := s.withFrames u) hc ha]
    exact exec_outbound_withFrames s u (Phase.command_inbound hc)

theorem waveCreateDone_withFrames (k : Nat) :
    (s.withFrames u).waveCreateDone k = (s.waveCreateDone k).withFrames u := by
  rw [State.waveCreateDone, State.waveCreateDone, apply_ite (State.withFrames · u)]
  rfl

theorem succeed_withFrames (v : CmplValue) :
    (s.withFrames u).succeed v = (s.succeed v).map (·.withFrames u) := by
  have hsame : (s.withFrames u).phase = s.phase := rfl
  cases v with
  | unit =>
    unfold State.succeed
    rw [hsame]
    cases s.phase <;> rfl
  | handle k =>
    unfold State.succeed
    rw [hsame]
    cases s.phase
    case create => exact congrArg some (waveCreateDone_withFrames s u k)
    all_goals rfl

theorem completed_withFrames (c : Completion) :
    (s.withFrames u).completed c = (s.completed c).map (·.withFrames u) := by
  cases c with
  | ok v => exact succeed_withFrames (s.landed (.cmplOk v)) u v
  | fail err =>
    have hsame : (s.withFrames u).phase = s.phase := rfl
    unfold State.completed
    rw [hsame]
    cases s.phase.tag <;> rfl

theorem complete_withFrames (c : Completion) :
    complete c (s.withFrames u) = resultWithFrames u (complete c s) := by
  have hsame : (s.withFrames u).await = s.await := rfl
  unfold complete
  rw [completed_withFrames, hsame]
  cases s.await <;> cases s.completed c <;> rfl

theorem takeMove_withFrames {m : Move} (hm : m.fromHost = false) :
    (takeMove m (s.withFrames u)).run = resultWithFrames u (takeMove m s).run := by
  cases m with
  | host w => cases hm
  | sequencer => exact sequencerTurn_withFrames s u
  | readiness => rfl
  | reconnect => rfl
  | complete c => exact complete_withFrames s u c

/-- A step that is no host's commutes with a change of the settings and the frames. -/
theorem step_withFrames {s : State} (hp : s.params.admitted = true)
    (hnh : ∀ w rest, s.pending ≠ .host w :: rest) : step (s.withFrames u) = resultWithFrames u (step s) := by
  cases hpend : s.pending with
  | nil =>
    rw [step_nil hp hpend, step_nil (s := s.withFrames u) hp hpend]
    exact sequencerTurn_withFrames s u
  | cons m rest =>
    have hm : m.fromHost = false := by
      cases m with
      | host w => exact absurd hpend (hnh w rest)
      | sequencer | readiness | reconnect | complete => rfl
    rw [step_cons hp hpend, step_cons (s := s.withFrames u) hp hpend]
    exact takeMove_withFrames { s with pending := rest } u hm

end

/-- Settles O51: the second state is the first with other settings and frames. -/
theorem sequencerReadsNoFrame : Obligations.SequencerReadsNoFrame := by
  intro s₁ s₂ t₁ hs hnh h
  have hstep := step_withFrames s₂ (step_kind h).1 hnh
  rw [h] at hstep
  rw [hs]
  exact hstep

end Sys2Proof.Machine
end

section
/-! PROOFS. The run in which every command succeeds (45_transmission_driver.md R117, R120): what it has made of its
schedule in each phase, what the moves between its own leave alone, and obligation O48. -/

namespace Sys2Proof.Machine

/-! ### Single steps -/

section
variable {s s' : State}

theorem step_pending (h : step s = .next s') : s'.pending = s.pending.tail := by
  cases (step_kind h).2 with
  | answered w rest r _ _ _ eq => rw [eq]
  | accepted w rest s₁ _ _ _ _ hacc => exact hacc.pending
  | issued c _ _ _ eq => rw [eq]; rfl
  | leftWaitReady _ _ _ eq => rw [eq]
  | notified rest _ eq => rw [eq]
  | completed c rest _ _ succ =>
    obtain ⟨-, es, eq, -⟩ := completed_frame succ
    rw [eq]
  | none _ eq => rw [eq]

/-- A step answers exactly where it is a host's. -/
theorem step_responses_length {m : Move} {rest : List Move} (hpend : s.pending = m :: rest)
    (h : step s = .next s') :
    s'.responses.length = s.responses.length + if m.fromHost then 1 else 0 := by
  have host {w : Word} {rest' : List Move} (hw : s.pending = .host w :: rest') : m.fromHost = true := by
    cases hpend.symm.trans hw
    rfl
  have other {m' : Move} {rest' : List Move} (hm : s.pending = m' :: rest') (hf : m'.fromHost = false) :
      m.fromHost = false := by
    cases hpend.symm.trans hm
    exact hf
  have quiet (hq : ∀ w rest, s.pending ≠ .host w :: rest) : m.fromHost = false := by
    cases m with
    | host w => exact absurd hpend (hq w rest)
    | sequencer | readiness | reconnect | complete => rfl
  have turn (ht : s.SequencerNext) : m.fromHost = false := by
    obtain hnil | ⟨_, hseq⟩ := ht
    · cases hpend.symm.trans hnil
    · exact other hseq rfl
  cases (step_kind h).2 with
  | answered w rest r pend _ _ eq => rw [host pend, eq]; simp
  | accepted w rest s₁ pend _ _ _ hacc => rw [host pend, hacc.responses]; simp
  | issued c ht _ _ eq => rw [turn ht, eq]; rfl
  | leftWaitReady ht _ _ eq => rw [turn ht, eq]; rfl
  | notified rest pend eq => rw [other pend rfl, eq]; rfl
  | completed c rest pend _ succ =>
    obtain ⟨-, es, eq, -⟩ := completed_frame succ
    rw [other pend rfl, eq]
    rfl
  | none hq eq => rw [quiet hq, eq]; rfl

/-- While a run is in flight no step accepts another or changes what acceptance loaded. -/
theorem step_keeps_run (hfly : s.phase.inFlight = true) (h : step s = .next s') :
    s'.wave = s.wave ∧ s'.nch = s.nch ∧ s'.ckskip = s.ckskip ∧
      acceptedCount s'.responses = acceptedCount s.responses := by
  cases (step_kind h).2 with
  | answered w rest r _ _ other eq => rw [eq]; exact ⟨rfl, rfl, rfl, by simp [acceptedCount_append, other]⟩
  | accepted w rest s₁ _ rests => cases hfly.symm.trans rests
  | issued c _ _ _ eq => rw [eq]; exact ⟨rfl, rfl, rfl, rfl⟩
  | leftWaitReady _ _ _ eq => rw [eq]; exact ⟨rfl, rfl, rfl, rfl⟩
  | notified rest _ eq => rw [eq]; exact ⟨rfl, rfl, rfl, rfl⟩
  | completed c rest _ _ succ =>
    obtain ⟨-, es, eq, -⟩ := completed_frame succ
    rw [eq]
    exact ⟨rfl, rfl, rfl, rfl⟩
  | none _ eq => rw [eq]; exact ⟨rfl, rfl, rfl, rfl⟩

/-- A move that is not the run's own, or an awaiting turn, leaves the run where it is (R120). -/
theorem step_aside {m : Move} {rest : List Move} (hinv : s.Inv) (hfly : s.phase.inFlight = true)
    (hpend : s.pending = m :: rest) (hc : ∀ c, m ≠ .complete c) (hseq : m = .sequencer → s.await = true)
    (h : step s = .next s') : s'.phase = s.phase ∧ s'.await = s.await ∧ s'.handles = s.handles := by
  have awaits (ht : s.SequencerNext) : s.await = true := by
    obtain hnil | ⟨_, hs⟩ := ht
    · cases hpend.symm.trans hnil
    · cases hpend.symm.trans hs
      exact hseq rfl
  cases (step_kind h).2 with
  | answered w rest r _ _ _ eq => rw [eq]; exact ⟨rfl, rfl, rfl⟩
  | accepted w rest s₁ _ rests => cases hfly.symm.trans rests
  | issued c ht _ await => cases (awaits ht).symm.trans await
  | leftWaitReady ht phase => cases (awaits ht).symm.trans (hinv.run.await_of_waitReady phase)
  | notified rest _ eq => rw [eq]; exact ⟨rfl, rfl, rfl⟩
  | completed c rest pend => cases hpend.symm.trans pend; exact absurd rfl (hc c)
  | none _ eq => rw [eq]; exact ⟨rfl, rfl, rfl⟩

end

theorem Phase.command_ne_none {ph : Phase} : ph.inFlight = true → ph ≠ .waitReady → ph.command ≠ none := by
  cases ph <;> decide

/-! ### The run's place in its schedule -/

/-- How many moves of the success schedule for the handles still to come a run has made: the moves of each chunk
are dropped with its handle, so the count of a phase does not depend on the chunk. -/
def movesMade : Phase → Bool → Nat
  | .waitReady, _ => 0
  | .modeset, aw => 1 + aw.toNat
  | .clear, aw => 3 + aw.toNat
  | .add, aw => 5 + aw.toNat
  | .create, aw => 7 + aw.toNat
  | .chain, aw => 5 + aw.toNat
  | .deact, aw => 7 + aw.toNat
  | .doneOk, _ => 9
  | .idle, _ => 0
  | .doneFail, _ => 0

theorem movesMade_issued {ph : Phase} {i : Instr} (hc : ph.command = some i) :
    movesMade ph true = movesMade ph false + 1 := by
  cases ph <;> cases hc <;> rfl

/-- A run of the state `s₀`, all of whose commands have succeeded with these handles, and its own moves still to
come. -/
structure Progress (s₀ : State) (handles : List Nat) (own : List Move) (s : State) : Prop where
  inv : s.Inv
  live : s.phase.inFlight = true ∨ (s.phase = .doneOk ∧ s.trace.getLast? = some (.done .ok s.ckskip))
  ready : s.ready = true
  ahead : ∃ hs, s.handles ++ hs = handles ∧ own = (successSchedule hs).drop (movesMade s.phase s.await)
  loaded : s.params = s₀.params ∧ s.wave = s₀.wave ∧ s.nch = s₀.nch ∧ s.ckskip = s₀.ckskip
  count : handles.length = s.nch
  issues : issuesOf s.trace = issuesOf s₀.trace ++ s.runIssues
  accepted : acceptedCount s.responses = acceptedCount s₀.responses

namespace Progress

variable {s₀ s s' : State} {handles : List Nat} {own own' : List Move}

/-- At the end of the run all the handles have come. -/
theorem handles_of_doneOk (h : Progress s₀ handles own s) (hph : s.phase = .doneOk) :
    s.handles = handles ∧ own = [] := by
  have hrun := h.inv.run
  unfold State.RunInv at hrun
  rw [hph] at hrun
  obtain ⟨-, -, -, -, -, hlen⟩ := hrun
  obtain ⟨hs, hhs, rfl⟩ := h.ahead
  have hnil : hs = [] := by
    have := congrArg List.length hhs
    rw [List.length_append, h.count] at this
    exact List.eq_nil_of_length_eq_zero (by omega)
  subst hnil
  exact ⟨by simpa using hhs, by rw [hph]; rfl⟩

theorem inFlight_of_cons {m : Move} (h : Progress s₀ handles (m :: own) s) : s.phase.inFlight = true :=
  h.live.resolve_right fun hdone => nomatch (h.handles_of_doneOk hdone.1).2

/-- The run with no move of its own ahead has ended. -/
theorem doneOk_of_nil (h : Progress s₀ handles [] s) :
    s.phase = .doneOk ∧ s.trace.getLast? = some (.done .ok s.ckskip) := by
  refine h.live.resolve_left fun hfly => ?_
  obtain ⟨hs, -, hown⟩ := h.ahead
  have hlen : 9 ≤ (successSchedule hs).length := by simp [successSchedule]
  have hmade : movesMade s.phase s.await < 9 := by
    revert hfly
    cases s.phase <;> cases s.await <;> decide
  have := congrArg List.length hown
  simp at this
  omega

/-- A step of a run in flight keeps what does not depend on its place in the schedule. -/
theorem of_step (h : Progress s₀ handles own s) (hfly : s.phase.inFlight = true) (hstep : step s = .next s')
    (hlive : s'.phase.inFlight = true ∨ (s'.phase = .doneOk ∧ s'.trace.getLast? = some (.done .ok s'.ckskip)))
    (hahead : ∃ hs, s'.handles ++ hs = handles ∧ own' = (successSchedule hs).drop (movesMade s'.phase s'.await)) :
    Progress s₀ handles own' s' := by
  obtain ⟨hparams, -, -, -, hready⟩ := stepsKeepConstantsAndHistory s s' hstep
  obtain ⟨hwave, hnch, hck, hacc⟩ := step_keeps_run hfly hstep
  obtain ⟨h₁, h₂, h₃, h₄⟩ := h.loaded
  refine ⟨stepKeepsTheInvariant s s' h.inv hstep, hlive, hready h.ready, hahead,
    ⟨hparams.trans h₁, hwave.trans h₂, hnch.trans h₃, hck.trans h₄⟩, h.count.trans hnch.symm, ?_,
    hacc.trans h.accepted⟩
  refine (runsFollowTheCommandSequence s s' _ h.inv h.issues hstep).resolve_right fun hnew => ?_
  cases hfly.symm.trans hnew.1

/-- The sequencer's own move issues its phase's command. -/
theorem issue {rest : List Move} {i : Instr} (h : Progress s₀ handles (.sequencer :: own) s)
    (hpend : s.pending = .sequencer :: rest) (ha : s.await = false) (hc : s.phase.command = some i) :
    ∃ s', step s = .next s' ∧ Progress s₀ handles own s' := by
  obtain ⟨c, hx, -⟩ := exists_issue (s := { s with pending := rest }) hc ha
  have hstep := (step_sequencer_command h.inv.built hpend hc ha).trans hx
  obtain ⟨hs, hhs, hown⟩ := h.ahead
  refine ⟨_, hstep, h.of_step h.inFlight_of_cons hstep (.inl h.inFlight_of_cons) ⟨hs, hhs, ?_⟩⟩
  show own = (successSchedule hs).drop (movesMade s.phase true)
  rw [movesMade_issued hc, ← List.tail_drop, ← ha, ← hown, List.tail_cons]

/-- A success of the outstanding command lands. -/
theorem complete {rest : List Move} {c : Completion} (h : Progress s₀ handles (.complete c :: own) s)
    (hpend : s.pending = .complete c :: rest) (ha : s.await = true)
    (hc : { s with pending := rest }.completed c = some s')
    (hlive : s'.phase.inFlight = true ∨ (s'.phase = .doneOk ∧ s'.trace.getLast? = some (.done .ok s'.ckskip)))
    (hahead : ∃ hs, s'.handles ++ hs = handles ∧ own = (successSchedule hs).drop (movesMade s'.phase s'.await)) :
    ∃ s', step s = .next s' ∧ Progress s₀ handles own s' := by
  have hstep := step_complete h.inv.built ha hpend hc
  exact ⟨s', hstep, h.of_step h.inFlight_of_cons hstep hlive hahead⟩

/-- The handles still to come: the current chunk's and those after it, and none once all chunks are created. -/
theorem ahead_handles {hs : List Nat} (h : Progress s₀ handles own s)
    (hhs : s.handles ++ hs = handles) :
    (s.phase ∈ [.add, .create] → ∃ k hs', hs = k :: hs') ∧ (s.phase ∈ [.chain, .deact] → hs = []) := by
  have hlen : s.handles.length + hs.length = s.nch := by rw [← List.length_append, hhs, h.count]
  have hrun := h.inv.run
  unfold State.RunInv at hrun
  constructor
  · intro hph
    have hph : s.phase = .add ∨ s.phase = .create := by simpa using hph
    refine List.exists_cons_of_length_pos ?_
    obtain hph | hph := hph <;> rw [hph] at hrun <;> omega
  · intro hph
    have hph : s.phase = .chain ∨ s.phase = .deact := by simpa using hph
    refine List.eq_nil_of_length_eq_zero ?_
    obtain hph | hph := hph <;> rw [hph] at hrun <;> omega

/-- With nothing outstanding, the run's next own move is the sequencer's. -/
theorem turn_next (h : Progress s₀ handles own s) (hfly : s.phase.inFlight = true) (ha : s.await = false) :
    ∃ own', own = .sequencer :: own' := by
  obtain ⟨hs, hhs, hown⟩ := h.ahead
  obtain ⟨hsome, hnone⟩ := h.ahead_handles hhs
  rw [ha] at hown
  cases hph : s.phase <;> rw [hph] at hown hfly hsome hnone
  case idle | doneOk | doneFail => cases hfly
  case waitReady | modeset | clear => exact ⟨_, hown⟩
  case add | create =>
    obtain ⟨k, hs, rfl⟩ := hsome (by decide)
    exact ⟨_, hown⟩
  case chain | deact =>
    obtain rfl := hnone (by decide)
    exact ⟨_, hown⟩

theorem await_of_complete {c : Completion} (h : Progress s₀ handles (.complete c :: own) s) : s.await = true := by
  by_contra ha
  obtain ⟨_, hnext⟩ := h.turn_next h.inFlight_of_cons (Bool.eq_false_of_not_eq_true ha)
  cases hnext

/-- While a command is outstanding, the run's next own move is its success, with the next handle for WAVE_CREATE. -/
theorem completion_step {m : Move} {rest : List Move} (h : Progress s₀ handles (m :: own) s)
    (hpend : s.pending = m :: rest) (ha : s.await = true) :
    ∃ s', step s = .next s' ∧ Progress s₀ handles own s' := by
  have hfly := h.inFlight_of_cons
  obtain ⟨hs, hhs, hown⟩ := h.ahead
  obtain ⟨hsome, hnone⟩ := h.ahead_handles hhs
  rw [ha] at hown
  cases hph : s.phase <;> rw [hph] at hown hfly hsome hnone
  case idle | doneOk | doneFail => cases hfly
  case waitReady => cases ha.symm.trans (h.inv.run.await_of_waitReady hph)
  case modeset =>
    obtain ⟨rfl, rfl⟩ := List.cons.inj hown
    exact h.complete hpend ha (State.completed_modeset hph) (.inl rfl) ⟨hs, hhs, rfl⟩
  case clear =>
    obtain ⟨rfl, rfl⟩ := List.cons.inj hown
    exact h.complete hpend ha (State.completed_clear hph) (.inl rfl) ⟨hs, hhs, rfl⟩
  case add =>
    obtain ⟨k, hs, rfl⟩ := hsome (by decide)
    obtain ⟨rfl, rfl⟩ := List.cons.inj hown
    exact h.complete hpend ha (State.completed_add hph) (.inl rfl) ⟨_, hhs, rfl⟩
  case create =>
    obtain ⟨k, hs, rfl⟩ := hsome (by decide)
    obtain ⟨rfl, rfl⟩ := List.cons.inj hown
    have hhs' : (s.handles ++ [k]) ++ hs = handles := by rw [List.append_assoc]; exact hhs
    by_cases hmore : s.ci + 1 < s.nch
    · exact h.complete hpend ha (State.completed_create_more (s := { s with pending := rest }) hph hmore k)
        (.inl rfl) ⟨hs, hhs', rfl⟩
    · exact h.complete hpend ha (State.completed_create_last (s := { s with pending := rest }) hph hmore k)
        (.inl rfl) ⟨hs, hhs', rfl⟩
  case chain =>
    obtain rfl := hnone (by decide)
    obtain ⟨rfl, rfl⟩ := List.cons.inj hown
    exact h.complete hpend ha (State.completed_chain hph) (.inl rfl) ⟨_, hhs, rfl⟩
  case deact =>
    obtain rfl := hnone (by decide)
    obtain ⟨rfl, rfl⟩ := List.cons.inj hown
    exact h.complete hpend ha (State.completed_deact hph) (.inr ⟨rfl, by simp⟩) ⟨_, hhs, rfl⟩

/-- The run's next own move goes on, and the run is one move further. -/
theorem own_step {m : Move} {rest : List Move} (h : Progress s₀ handles (m :: own) s)
    (hpend : s.pending = m :: rest) : ∃ s', step s = .next s' ∧ Progress s₀ handles own s' := by
  have hfly := h.inFlight_of_cons
  by_cases ha : s.await = true
  · exact h.completion_step hpend ha
  have ha := Bool.eq_false_of_not_eq_true ha
  obtain ⟨_, hnext⟩ := h.turn_next hfly ha
  cases hnext
  by_cases hph : s.phase = .waitReady
  · have hstep := ((waitReadyLeavesOnceReady s h.inv.built hph).1 rest hpend).1 h.ready
    obtain ⟨hs, hhs, hown⟩ := h.ahead
    rw [hph] at hown
    exact ⟨_, hstep, h.of_step hfly hstep (.inl rfl) ⟨hs, hhs, (List.cons.inj hown).2⟩⟩
  · obtain ⟨i, hc⟩ := Option.ne_none_iff_exists'.mp (Phase.command_ne_none hfly hph)
    exact h.issue hpend ha hc

/-- A move between the run's own goes on, and the run is where it was. -/
theorem aside_step {m : Move} {rest : List Move} (h : Progress s₀ handles own s) (hfly : s.phase.inFlight = true)
    (hpend : s.pending = m :: rest) (hc : ∀ c, m ≠ .complete c) (hseq : m = .sequencer → s.await = true) :
    ∃ s', step s = .next s' ∧ Progress s₀ handles own s' := by
  obtain ⟨s', hstep⟩ := exists_step h.inv.built (s := s) fun c rest' hpend' => by
    cases hpend.symm.trans hpend'
    exact hc c rfl
  obtain ⟨hph, haw, hhs⟩ := step_aside h.inv hfly hpend hc hseq hstep
  refine ⟨s', hstep, h.of_step hfly hstep (.inl (hph ▸ hfly)) ?_⟩
  rw [hph, haw, hhs]
  exact h.ahead

end Progress

/-- A run of a machine goes on from its first step. -/
theorem core_run_succ {M : Host.Core} {s s' : M.State} (h : M.step s = .next s') (k : Nat) :
    M.run (k + 1) s = M.run k s' := by
  rw [Host.Core.run, h]

/-- A run so far that makes all the moves of its schedule ends with none of its own ahead, having answered each
host's word. -/
def Finishes (s₀ : State) (handles : List Nat) (s : State) : Prop :=
  ∃ t : State, Host.Core.run Sys2Proof.core s.pending.length s = .next t ∧ Progress s₀ handles [] t ∧ t.pending = [] ∧
    t.responses.length = s.responses.length + s.pending.countP Move.fromHost

theorem Finishes.of_step {s₀ s s' : State} {handles : List Nat} {m : Move} {rest : List Move}
    (hpend : s.pending = m :: rest) (hstep : step s = .next s') (h : Finishes s₀ handles s') :
    Finishes s₀ handles s := by
  have hrest : s'.pending = rest := by rw [step_pending hstep, hpend, List.tail_cons]
  obtain ⟨t, hrun, hprog, hnil, hresp⟩ := h
  refine ⟨t, ?_, hprog, hnil, ?_⟩
  · rw [hpend, List.length_cons, ← hrest, core_run_succ (M := core) hstep]
    exact hrun
  · rw [hresp, step_responses_length hpend hstep, hrest, hpend, List.countP_cons]
    omega

theorem Finishes.of_next {s₀ s : State} {handles : List Nat} {own : List Move} {m : Move} {rest : List Move}
    (hpend : s.pending = m :: rest) (h : ∃ s', step s = .next s' ∧ Progress s₀ handles own s')
    (ih : ∀ {s' : State}, s'.pending = rest → Progress s₀ handles own s' → Finishes s₀ handles s') :
    Finishes s₀ handles s := by
  obtain ⟨s', hstep, hprog⟩ := h
  exact .of_step hpend hstep (ih (by rw [step_pending hstep, hpend, List.tail_cons]) hprog)

theorem Progress.finishes {s₀ : State} {handles : List Nat} {own sched : List Move} (hi : Interleaved own sched)
    {s : State} (hpend : s.pending = sched) (h : Progress s₀ handles own s) : Finishes s₀ handles s := by
  induction hi generalizing s with
  | done => exact ⟨s, by rw [hpend]; rfl, h, hpend, by rw [hpend]; rfl⟩
  | own m _ ih => exact .of_next hpend (h.own_step hpend) ih
  | host w _ ih => exact .of_next hpend (h.aside_step h.inFlight_of_cons hpend nofun nofun) ih
  | readiness _ ih => exact .of_next hpend (h.aside_step h.inFlight_of_cons hpend nofun nofun) ih
  | reconnect _ ih => exact .of_next hpend (h.aside_step h.inFlight_of_cons hpend nofun nofun) ih
  | idle _ ih =>
    exact .of_next hpend (h.aside_step h.inFlight_of_cons hpend nofun fun _ => h.await_of_complete) ih

/-- Settles O48: a run from WAIT_READY has all its moves ahead and none issued, and at its end the commands issued
are the whole sequence. -/
theorem successfulRunIssuesTheWholeSequence : Obligations.SuccessfulRunIssuesTheWholeSequence := by
  intro s handles hinv hph hready hlen hi
  have hnone : s.runIssues = [] := by
    rw [State.runIssues, State.issuedCount_of_ne_doneFail (by rw [hph]; decide), hph,
      hinv.run.await_of_waitReady hph]
    rfl
  have hhs : s.handles = [] := by
    have hrun := hinv.run
    unfold State.RunInv at hrun
    rw [hph] at hrun
    exact hrun.2.2.2
  have hstart : Progress s handles (successSchedule handles) s :=
    ⟨hinv, .inl (by rw [hph]; rfl), hready, ⟨handles, by rw [hhs]; rfl, by rw [hph]; rfl⟩, ⟨rfl, rfl, rfl, rfl⟩, hlen,
      by rw [hnone, List.append_nil], rfl⟩
  obtain ⟨t, hrun, hend, hnil, hresp⟩ := hstart.finishes hi rfl
  obtain ⟨hdone, hlast⟩ := hend.doneOk_of_nil
  obtain ⟨hparams, hwave, hnch, hck⟩ := hend.loaded
  have hthandles := (hend.handles_of_doneOk hdone).1
  have hres : t.result = .ok := by
    have hrun := hend.inv.run
    unfold State.RunInv at hrun
    rw [hdone] at hrun
    exact hrun.2.1
  have hall : t.runIssues = runCommands s.params s.wave s.nch handles := by
    have hcount := State.issuedCount_of_ne_doneFail (s := t) (by rw [hdone]; decide)
    rw [hdone] at hcount
    rw [State.runIssues, hcount, hparams, hwave, hnch, hthandles, commandsBefore]
    exact List.take_of_length_le (by simp)
  exact ⟨t, hrun, hdone, hres, hthandles, hnil, hall ▸ hend.issues, hck ▸ hlast, hresp, hend.accepted⟩

end Sys2Proof.Machine
end

section
/-! PROOFS. Names and numbers in assembly lines (30_encoding.md R53, R58), the option named "ULTRA", and what a
setter answers (40_protocol_state.md R67, R75): obligations O9, O11, O20, O26 and O60. -/

namespace Sys2Proof

/-! ### Names -/

theorem nameIndexFrom_of_getElem? {names : List String} (hd : names.Nodup) {name : String} {k : Nat} (n : Nat)
    (h : names[k]? = some name) : nameIndexFrom name n names = some (n + k) := by
  induction names generalizing n k with
  | nil => cases h
  | cons x xs ih =>
    obtain ⟨hx, hd⟩ := List.nodup_cons.mp hd
    cases k with
    | zero =>
      obtain rfl : x = name := by simpa using h
      exact if_pos rfl
    | succ k =>
      have hxs : xs[k]? = some name := by simpa using h
      have hne : x ≠ name := fun e => hx (e ▸ List.mem_of_getElem? hxs)
      rw [nameIndexFrom, if_neg hne, ih hd (n + 1) hxs, Nat.add_assoc, Nat.add_comm 1]

theorem nameIndexFrom_of_not_mem {names : List String} {name : String} (n : Nat) (h : name ∉ names) :
    nameIndexFrom name n names = none := by
  induction names generalizing n with
  | nil => rfl
  | cons x xs ih =>
    obtain ⟨hne, hxs⟩ := not_or.mp (mt List.mem_cons.mpr h)
    rw [nameIndexFrom, if_neg (Ne.symm hne), ih (n + 1) hxs]

/-- What admission says of NAMES (30_encoding.md R53, R58). -/
theorem Params.admitted_names {p : Params} (h : p.admitted = true) :
    p.names.Nodup ∧ p.names.length < 0xFFFFFF ∧ "ULTRA" ∈ p.names := by
  obtain ⟨-, -, hnames, -⟩ := admitted_checks h
  simp only [checkNames, Bool.and_eq_true, decide_eq_true_eq, List.contains_iff_mem] at hnames
  obtain ⟨⟨⟨⟨hd, hlen⟩, -⟩, -⟩, hultra⟩ := hnames
  exact ⟨allDistinct_nodup hd, hlen, hultra⟩

theorem Params.admitted_keys {p : Params} (h : p.admitted = true) :
    p.checkKeys p.vt.fanMap = true ∧ p.checkKeys p.vt.modeMap = true ∧ p.checkKeys p.vt.swingMap = true := by
  obtain ⟨-, ⟨hfan, hmode, hswing, -⟩, -⟩ := admitted_checks h
  exact ⟨hfan, hmode, hswing⟩

/-- A nid that names no string, or "ULTRA", is no key of a checked map (R20 check 11). -/
theorem Params.lookupCode_eq_none {p : Params} {m : List (Nat × Nat)} (hk : p.checkKeys m = true) {nid : Nat}
    (h : p.names.length ≤ nid ∨ p.nameOf nid = some "ULTRA") : lookupCode m nid = none := by
  by_contra hne
  obtain ⟨c, hc⟩ := Option.ne_none_iff_exists'.mp hne
  obtain ⟨hlt, hname⟩ := checkKeys_spec hk hc
  rcases h with h | h
  · omega
  · exact hname h

theorem assembleLine_of_wf {names : List String} {line : AsmLine} {i : Instr}
    (hi : assembleInstr names line = some i) (hwf : i.wf = true) :
    assembleLine names line = some (encode i) := by
  simp [assembleLine, hi, hwf]

theorem assembleLine_of_not_wf {names : List String} {line : AsmLine} {i : Instr}
    (hi : assembleInstr names line = some i) (hwf : i.wf = false) : assembleLine names line = none := by
  simp [assembleLine, hi, hwf]

/-- The three setter lines put the name's nid into their command (30_encoding.md R58). -/
theorem assembleLine_setters {names : List String} {name : String} {nid : Nat}
    (h : assembleName names name = nid) (hlt : nid < 2 ^ 24) :
    assembleLine names (.setFan name) = some (encode (.setFan nid)) ∧
      assembleLine names (.setMode name) = some (encode (.setMode nid)) ∧
      assembleLine names (.setSwing name) = some (encode (.setSwing nid)) := by
  subst h
  exact ⟨assembleLine_of_wf rfl (decide_eq_true hlt), assembleLine_of_wf rfl (decide_eq_true hlt),
    assembleLine_of_wf rfl (decide_eq_true hlt)⟩

/-- Settles O9: NAMES is distinct and shorter than 0xFFFFFF, so a name has one index, and 0xFFFFFF is none. -/
theorem unknownNamesAssembleToNoName : Obligations.UnknownNamesAssembleToNoName := by
  intro p name hp
  obtain ⟨hd, hlen, -⟩ := Params.admitted_names hp
  obtain ⟨hfan, hmode, hswing⟩ := Params.admitted_keys hp
  refine ⟨fun k hk => ?_, fun hn => ?_⟩
  · have hname : assembleName p.names name = k := by
      rw [assembleName, nameIndexFrom_of_getElem? hd 0 hk, Nat.zero_add]
    obtain ⟨hlt, -⟩ := List.getElem?_eq_some_iff.mp hk
    exact assembleLine_setters hname (by omega)
  · have hname : assembleName p.names name = 0xFFFFFF := by
      rw [assembleName, nameIndexFrom_of_not_mem 0 hn]
    obtain ⟨h₁, h₂, h₃⟩ := assembleLine_setters hname (by decide)
    exact ⟨h₁, h₂, h₃, Params.lookupCode_eq_none hfan (.inl hlen.le),
      Params.lookupCode_eq_none hmode (.inl hlen.le), Params.lookupCode_eq_none hswing (.inl hlen.le)⟩

/-! ### Numbers -/

theorem setTemp_wf_iff {t : Int} : (Instr.setTemp t).wf = true ↔ -8388608 ≤ t ∧ t ≤ 8388607 := by
  simp [Instr.wf]

theorem assembleInstr_writeByte {value : Nat} (names : List String) (n : Nat) (h : value < 256) :
    assembleInstr names (.writeByte value n) = some (.writeByte (BitVec.ofNat 8 value) n) := if_pos h

/-- A WRITE_BYTE line whose value is no byte is no command. -/
theorem assembleLine_writeByte_big {value : Nat} (names : List String) (n : Nat) (h : 256 ≤ value) :
    assembleLine names (.writeByte value n) = none := by
  have hnone : assembleInstr names (.writeByte value n) = none := if_neg (by omega)
  simp [assembleLine, hnone]

/-- Settles O60: a line whose operands fit assembles to its command's code, the fields of which are those the
encoder put in, and a line whose operands do not fit to none. -/
theorem numericLinesAssembleTheirOperands : Obligations.NumericLinesAssembleTheirOperands := by
  intro names
  refine ⟨fun t hlo hhi => ?_, fun n hn => ?_, fun value n hv hn => ?_, fun _ _ => rfl, rfl, rfl, rfl,
    fun t ht => ?_, fun n hn => ?_, fun value n h => ?_⟩
  · exact ⟨_, assembleLine_of_wf rfl (setTemp_wf_iff.mpr ⟨hlo, hhi⟩), opcode_commandWord _ _,
      operand_toInt_of_range _ hlo hhi⟩
  · obtain ⟨hz, hf⟩ := commandWord_index_fields 0#16 (BitVec.ofNat 8 n) 0x08#8
    have hwf : (Instr.readByte n).wf = true := decide_eq_true hn
    exact ⟨_, assembleLine_of_wf rfl hwf, opcode_commandWord _ _,
      (congrArg _ hf).trans (byte_toNat_of_lt hn), hz⟩
  · obtain ⟨hz, hval, hf⟩ := commandWord_value_fields 0#8 (BitVec.ofNat 8 value) (BitVec.ofNat 8 n) 0x09#8
    have hwf : (Instr.writeByte (BitVec.ofNat 8 value) n).wf = true := decide_eq_true hn
    exact ⟨_, assembleLine_of_wf (assembleInstr_writeByte names n hv) hwf, opcode_commandWord _ _,
      (congrArg _ hf).trans (byte_toNat_of_lt hn), (congrArg _ hval).trans (byte_toNat_of_lt hv), hz⟩
  · refine assembleLine_of_not_wf rfl (Bool.eq_false_of_not_eq_true (mt setTemp_wf_iff.mp ?_))
    omega
  · exact assembleLine_of_not_wf rfl (decide_eq_false (by omega))
  · by_cases hv : value < 256
    · exact assembleLine_of_not_wf (assembleInstr_writeByte names n hv) (decide_eq_false (by omega))
    · exact assembleLine_writeByte_big names n (by omega)

end Sys2Proof

namespace Sys2Proof.Machine

/-! ### Frame writes and setters -/

/-- Settles O11: a write repeated on the state it left changes nothing, and that state reads what it wrote. -/
theorem frameWritesAreIdempotent : Obligations.FrameWritesAreIdempotent :=
  fun _ _ _ _ _ h => ⟨State.memWrite_again h rfl rfl, State.memRead_memWrite_self h⟩

/-- Settles O20: NAMES has "ULTRA", and no map has it as a key. -/
theorem ultraIsNeverAnOption : Obligations.UltraIsNeverAnOption := by
  intro s hp
  obtain ⟨-, -, hmem⟩ := Params.admitted_names hp
  obtain ⟨nid, hnid⟩ := List.mem_iff_getElem?.mp hmem
  obtain ⟨hfan, hmode, hswing⟩ := Params.admitted_keys hp
  exact ⟨nid, hnid, setOption_unknown (Params.lookupCode_eq_none hfan (.inr hnid)) _ _ s,
    setOption_unknown (Params.lookupCode_eq_none hmode (.inr hnid)) _ _ s,
    setOption_unknown (Params.lookupCode_eq_none hswing (.inr hnid)) _ _ s⟩

/-- What an option setter answers is what its field decodes to (40_protocol_state.md R75). -/
theorem setOption_decodes_back {s : State} (hp : s.params.admitted = true) {m : List (Nat × Nat)} {f : Field}
    (hf : f ∈ s.params.vt.fields) (hm : VendorTable.checkMap m f = true) {nid : Nat}
    (hn : lookupCode m nid ≠ none) {store : State → Nat → State}
    (hst : ∀ t c, store t c =
      { t with fan := (store t c).fan, mode := (store t c).mode, swing := (store t c).swing }) :
    ∃ s' c, setOption m f nid store s = .next s' ∧ s'.responses = s.responses ++ [.ok (.name nid)] ∧
      s'.fieldRead .fn f = some c ∧ inverseCode m c = some nid := by
  obtain ⟨hd, hfit⟩ := VendorTable.checkMap_spec hm
  obtain ⟨c, hc⟩ := Option.ne_none_iff_exists'.mp hn
  obtain ⟨_, s₁, -, -, hw⟩ := s.admitted_fieldWrite hp hf c
  have hread : (store s₁ c).fieldRead .fn f = s₁.fieldRead .fn f := by
    rw [hst]
    exact State.fieldRead_congr rfl rfl f
  have hresp : (store s₁ c).responses = s.responses := by
    rw [hst, ← State.fieldWrite_responses hw]
  refine ⟨(store s₁ c).respond (.name nid), c, by simp [setOption, hc, hw], ?_, ?_, inverseCode_lookupCode hd hc⟩
  · rw [State.respond_responses, hresp]
  · rw [State.respond_fieldRead, hread, State.fieldRead_fieldWrite_self hw (hfit nid c hc)]

/-- Settles O26: the value written fits its field, so the field reads it back, and both tables are inverted. -/
theorem settingsDecodeBackFromTheFrame : Obligations.SettingsDecodeBackFromTheFrame := by
  intro s hp
  obtain ⟨hfan, hmode, hswing⟩ := Params.admitted_maps hp
  refine ⟨fun t => ?_, fun nid hn => setOption_decodes_back hp s.params.vt.fldFan_mem hfan hn fun _ _ => rfl,
    fun nid hn => setOption_decodes_back hp s.params.vt.fldMode_mem hmode hn fun _ _ => rfl,
    fun nid hn => setOption_decodes_back hp s.params.vt.fldSwing_mem hswing hn fun _ _ => rfl⟩
  obtain ⟨s', h⟩ := exists_execSetTemp hp t
  obtain ⟨hlo, hhi⟩ := s.clampTemp_bounds hp t
  obtain ⟨e', he', hfit, hdec⟩ := Params.admitted_temp hp hlo hhi
  obtain ⟨e, s₁, he, hw, rfl⟩ := execSetTemp_cases h
  cases he.symm.trans he'
  have hread := State.fieldRead_fieldWrite_self hw hfit
  have hresp := State.fieldWrite_responses hw
  exact ⟨_, _, h, congrArg (· ++ _) hresp, (State.respond_fieldRead ..).trans hread, hdec⟩

end Sys2Proof.Machine
end

section
/-! PROOFS. The checksum's own byte (41_checksum.md R76) and the other reading of its remainder (R77): obligations
O28 and O29. -/

namespace Sys2Proof.Machine

/-- A slice does not read an element outside it. -/
theorem slice_set_of_outside {α : Type} (xs : List α) {a b i : Nat} (x : α) (h : i < a ∨ b ≤ i) :
    slice (xs.set i x) a b = slice xs a b := by
  rw [slice, slice]
  rcases h with h | h
  · rw [List.take_set, List.drop_set_of_lt h]
  · rw [List.take_set_of_le h]

/-- Settles O28: CK_POS lies outside CK_LO..CK_HI (10_state.md R20 check 3), and the length is kept. -/
theorem checksumIgnoresItsOwnByte : Obligations.ChecksumIgnoresItsOwnByte := by
  intro p F b hp
  obtain ⟨-, hlo, -, -, hpos, -, hout⟩ := Params.admitted_checksum hp
  have hsum : checksumSum p.vt (F.set (p.vt.ckPos - 1) b) = checksumSum p.vt F := by
    rw [checksumSum, slice_set_of_outside F b (by omega), checksumSum]
  rw [checksum, checksum, List.length_set, hsum]

/-- Settles O29: both remainders differ from the integer by a multiple of 256, which the byte does not see. -/
theorem remainderReadingsGiveTheSameByte : Obligations.RemainderReadingsGiveTheSameByte := by
  intro x
  have hx := Int.tmod_add_mul_tdiv x 256
  apply BitVec.eq_of_toNat_eq
  rw [euclidByte_eq_ofInt, truncByte, BitVec.toNat_ofInt, BitVec.toNat_ofInt]
  omega

end Sys2Proof.Machine
end

section
/-! PROOFS. The pulse train of a frame (42_pulse_train.md R83 to R88), bit by bit: obligations O31 and O32. -/

namespace Sys2Proof.Machine

/-- The bits of a frame in the order in which they are sent: bytes in order, bit 0 first (R83). -/
def frameBits (F : List Byte) : List Bool := F.flatMap fun b => (List.range 8).map b.getLsbD

/-- The two durations of a bit: the space that tells its value, and the gap. -/
def bitPair (vt : VendorTable) (bit : Bool) : List Nat := [bitDuration vt bit, vt.tGap]

@[simp] theorem frameBits_length (F : List Byte) : (frameBits F).length = 8 * F.length := by
  simp [frameBits, List.length_flatMap, Nat.mul_comm]

theorem frameBits_getElem? {F : List Byte} {n j : Nat} {b : Byte} (hn : F[n]? = some b) (hj : j < 8) :
    (frameBits F)[8 * n + j]? = some (b.getLsbD j) := by
  rw [frameBits, flatMap_getElem?_block (c := 8) (by simp) hn hj]
  simp [hj]

theorem flatMap_encodeByte (vt : VendorTable) (F : List Byte) :
    F.flatMap (encodeByte vt) = (frameBits F).flatMap (bitPair vt) := by
  rw [frameBits, List.flatMap_assoc]
  refine congrArg (F.flatMap ·) (funext fun b => ?_)
  rw [encodeByte, List.flatMap_map]
  rfl

/-- A train is its header and the pairs of its bits. -/
theorem encodeFrame_eq (vt : VendorTable) (F : List Byte) :
    encodeFrame vt F = [vt.tHdrMark, vt.tHdrSpace, vt.tGap] ++ (frameBits F).flatMap (bitPair vt) := by
  rw [encodeFrame, flatMap_encodeByte]

/-- The durations of bit k of the frame stand at its pair. -/
theorem encodeFrame_getElem?_bit (vt : VendorTable) {F : List Byte} {k i : Nat} {bit : Bool}
    (hk : (frameBits F)[k]? = some bit) (hi : i < 2) :
    (encodeFrame vt F)[3 + (2 * k + i)]? = (bitPair vt bit)[i]? := by
  rw [encodeFrame_eq, List.getElem?_append_right (by simp),
    ← flatMap_getElem?_block (f := bitPair vt) (fun _ => rfl) hk hi]
  simp

/-- Settles O31: bit j of byte n is bit 8·n + j of the frame. -/
theorem pulseTrainPositions : Obligations.PulseTrainPositions := by
  refine fun vt F => ⟨rfl, rfl, rfl, fun n b j hn hj => ?_⟩
  have hbit := frameBits_getElem? hn hj
  have h₀ := encodeFrame_getElem?_bit vt hbit (i := 0) (by decide)
  have h₁ := encodeFrame_getElem?_bit vt hbit (i := 1) (by decide)
  rw [show 3 + 16 * n + 2 * j = 3 + (2 * (8 * n + j) + 0) by omega,
    show 4 + 16 * n + 2 * j = 3 + (2 * (8 * n + j) + 1) by omega]
  exact ⟨h₀, h₁⟩

/-- The time of a list of bits: a gap for each, and the duration of its value. -/
theorem flatMap_bitPair_sum (vt : VendorTable) (bits : List Bool) :
    (bits.flatMap (bitPair vt)).sum =
      bits.length * vt.tGap + bits.count true * vt.tOne + (bits.length - bits.count true) * vt.tZero := by
  induction bits with
  | nil => simp
  | cons bit bits ih =>
    have hle : bits.count true ≤ bits.length := List.count_le_length
    rw [List.flatMap_cons, List.sum_append, ih]
    cases bit with
    | true =>
      simp [bitPair, bitDuration, Nat.add_sub_add_right]
      ring
    | false =>
      simp [bitPair, bitDuration, Nat.sub_add_comm hle]
      ring

/-- Settles O32: the header's durations, and the bits' of which `ones` are 1. -/
theorem pulseTrainNominalTime : Obligations.PulseTrainNominalTime := by
  rintro vt F ones rfl
  rw [encodeFrame_eq, List.sum_append, flatMap_bitPair_sum, frameBits_length]
  simp only [List.sum_cons, List.sum_nil, frameBits]
  ring

end Sys2Proof.Machine
end

section
/-! PROOFS. The carrier (43_carrier_modulator.md R92 to R95): the half-cycle count under each reading, the burst of a
mark, and obligations O33, O34 and O36. -/

namespace Sys2Proof.Machine

/-- A quotient by twice the divisor, with the remainder split off. -/
theorem twice_add_div (n m c : Nat) (hm : 0 < m) :
    (2 * n + c) / (2 * m) = (2 * (n % m) + c) / (2 * m) + n / m := by
  have hn := Nat.div_add_mod n m
  have hsplit : 2 * n + c = 2 * (n % m) + c + 2 * m * (n / m) := by
    rw [Nat.mul_assoc]
    omega
  rw [hsplit, Nat.add_mul_div_left _ _ (by omega)]

/-! What `roundQuotient` says of the remainder (00_scope.md R10; 93_implementation_defined.md I3). -/

section
variable {tie : CarrierTie} {n m : Nat}

theorem roundQuotient_below (h : 2 * (n % m) < m) : roundQuotient tie n m = n / m := by
  cases tie with
  | up => rw [roundQuotient, twice_add_div n m m (by omega), Nat.div_eq_of_lt (by omega), Nat.zero_add]
  | down =>
    rw [roundQuotient, Nat.add_sub_assoc (by omega), twice_add_div n m (m - 1) (by omega),
      Nat.div_eq_of_lt (by omega), Nat.zero_add]
  | even => exact if_pos h

theorem roundQuotient_above (hm : 0 < m) (h : m < 2 * (n % m)) : roundQuotient tie n m = n / m + 1 := by
  have hr := Nat.mod_lt n hm
  have hone {c : Nat} (hc : m - 1 ≤ c) (hc' : c ≤ m) : (2 * (n % m) + c) / (2 * m) = 1 :=
    Nat.div_eq_of_lt_le (by omega) (by omega)
  cases tie with
  | up => rw [roundQuotient, twice_add_div n m m hm, hone (by omega) le_rfl, Nat.add_comm]
  | down =>
    rw [roundQuotient, Nat.add_sub_assoc (by omega), twice_add_div n m (m - 1) hm, hone le_rfl (by omega),
      Nat.add_comm]
  | even =>
    rw [roundQuotient, if_neg (by omega)]
    exact if_pos h

theorem roundQuotient_half_up (hm : 0 < m) (h : 2 * (n % m) = m) : roundQuotient .up n m = n / m + 1 := by
  rw [roundQuotient, twice_add_div n m m hm, h, ← Nat.two_mul, Nat.div_self (by omega), Nat.add_comm]

theorem roundQuotient_half_down (hm : 0 < m) (h : 2 * (n % m) = m) : roundQuotient .down n m = n / m := by
  rw [roundQuotient, Nat.add_sub_assoc (by omega), twice_add_div n m (m - 1) hm, Nat.div_eq_of_lt (by omega),
    Nat.zero_add]

theorem roundQuotient_half_even (h : 2 * (n % m) = m) : roundQuotient .even n m = n / m + n / m % 2 := by
  rw [roundQuotient, if_neg (by omega)]
  exact if_neg (by omega)

end

/-- Under the exact period 2·d·38000 / 10^6 reduces to 19·d / 250. -/
theorem roundQuotient_reduce (tie : CarrierTie) (n : Nat) :
    roundQuotient tie (4000 * n) (4000 * 250) = roundQuotient tie n 250 := by
  have hdiv : 4000 * n / (4000 * 250) = n / 250 := Nat.mul_div_mul_left n 250 (by decide)
  have hmod : 4000 * n % (4000 * 250) = 4000 * (n % 250) := Nat.mul_mod_mul_left 4000 n 250
  rcases Nat.lt_trichotomy (2 * (n % 250)) 250 with hlt | heq | hgt
  · rw [roundQuotient_below hlt, roundQuotient_below (by omega), hdiv]
  · have heq' : 2 * (4000 * n % (4000 * 250)) = 4000 * 250 := by omega
    cases tie with
    | up => rw [roundQuotient_half_up (by decide) heq, roundQuotient_half_up (by decide) heq', hdiv]
    | down => rw [roundQuotient_half_down (by decide) heq, roundQuotient_half_down (by decide) heq', hdiv]
    | even => rw [roundQuotient_half_even heq, roundQuotient_half_even heq', hdiv]
  · rw [roundQuotient_above (by decide) hgt, roundQuotient_above (by decide) (by omega), hdiv]

theorem carrierCount_exact {p : Params} (h : p.carrierPeriod = .exactPeriod) (d : Nat) :
    carrierCount p d = roundQuotient p.carrierTie (19 * d) 250 := by
  rw [← roundQuotient_reduce]
  simp only [carrierCount, h, fCarrier]
  congr 1
  omega

theorem carrierCount_rounded {p : Params} (h : p.carrierPeriod = .rounded26) (d : Nat) :
    carrierCount p d = roundQuotient p.carrierTie (2 * d) 26 := by
  simp only [carrierCount, h]

/-- Off the half the tie rule does not matter: the count is 19·d / 250 rounded. -/
theorem carrierCount_of_no_tie {p : Params} (h : p.carrierPeriod = .exactPeriod) {d : Nat}
    (hd : 19 * d % 250 ≠ 125) : carrierCount p d = (19 * d + 125) / 250 := by
  rw [carrierCount_exact h]
  rcases Nat.lt_or_gt_of_ne hd with hlt | hgt
  · rw [roundQuotient_below (by omega)]
    omega
  · rw [roundQuotient_above (by decide) (by omega)]
    omega

/-- With 26 µs a remainder is even and no half, so the count is d / 13 rounded. -/
theorem carrierCount_rounded_eq {p : Params} (h : p.carrierPeriod = .rounded26) (d : Nat) :
    carrierCount p d = (d + 6) / 13 := by
  rw [carrierCount_rounded h]
  rcases Nat.lt_or_ge (2 * (2 * d % 26)) 26 with hlt | hge
  · rw [roundQuotient_below hlt]
    omega
  · rw [roundQuotient_above (by decide) (by omega)]
    omega

/-- Settles O33: by the remainder of 19·d by 250, which is 125 where that of d is. -/
theorem carrierCountFormula : Obligations.CarrierCountFormula := by
  intro p d
  have htie : 19 * d % 250 = 125 ↔ d % 250 = 125 := by omega
  have half (hd : d % 250 = 125) : 2 * (19 * d % 250) = 250 := by omega
  refine ⟨fun ⟨hup, hper⟩ => ?_, htie, fun hper hne => carrierCount_of_no_tie hper (mt htie.mp hne),
    fun hper hd => ?_, fun hper => carrierCount_rounded_eq hper d⟩
  · by_cases hd : d % 250 = 125
    · rw [carrierCount_exact hper, hup, roundQuotient_half_up (by decide) (half hd)]
      omega
    · exact carrierCount_of_no_tie hper (mt htie.mp hd)
  · rw [carrierCount_exact hper]
    refine ⟨fun hup => ?_, fun hdown => ?_, fun heven => ?_⟩
    · rw [hup, roundQuotient_half_up (by decide) (half hd)]
    · rw [hdown, roundQuotient_half_down (by decide) (half hd)]
    · rw [heven, roundQuotient_half_even (half hd)]
      omega

/-! ### Bursts -/

/-- The emitter's line is one bit of a mask (30_encoding.md R59). -/
theorem emitMask_getLsbD {pin : Nat} (hpin : pin ≤ 31) (k : Nat) :
    (1#32 <<< pin).getLsbD k = true ↔ k = pin := by
  simp [BitVec.getLsbD_shiftLeft, BitVec.getLsbD_one]
  omega

theorem halfCycle_even (p : Params) {k : Nat} (h : k % 2 = 0) : halfCycle p k = pulseOn p 13 := if_pos h

theorem halfCycle_odd (p : Params) {k : Nat} (h : k % 2 = 1) : halfCycle p k = pulseOff p 13 :=
  if_neg (by omega)

@[simp] theorem halfCycle_delay (p : Params) (k : Nat) : (halfCycle p k).delay.toNat = 13 := by
  rcases Nat.mod_two_eq_zero_or_one k with h | h
  · rw [halfCycle_even p h]; rfl
  · rw [halfCycle_odd p h]; rfl

/-- Every half-cycle lasts 13 µs, so the burst lasts 13 times the count (R94). -/
theorem modulate_time (p : Params) (d : Nat) : ((modulate p d).map (·.delay.toNat)).sum = 13 * carrierCount p d := by
  have hconst : (modulate p d).map (·.delay.toNat) = List.replicate (carrierCount p d) 13 := by
    simp [modulate, List.eq_replicate_iff]
  rw [hconst, List.sum_replicate, smul_eq_mul, Nat.mul_comm]

/-- A burst ends with its last half-cycle. -/
theorem modulate_getLast? (p : Params) {d : Nat} (h : carrierCount p d ≠ 0) :
    (modulate p d).getLast? = some (halfCycle p (carrierCount p d - 1)) := by
  rw [List.getLast?_eq_getElem?, modulate_length, modulate_getElem? p (by omega)]

/-- Settles O34: what is said of a burst is said of its half-cycles one by one. -/
theorem burstAlternatesFromOn : Obligations.BurstAlternatesFromOn := by
  intro p d
  refine ⟨rfl, rfl, fun hp k _ => ?_, modulate_length p d, fun k hk => modulate_getElem? p hk, modulate_time p d,
    fun hodd => ?_, fun hne heven => ?_⟩
  · obtain ⟨-, hpin, -⟩ := Params.admitted_platform hp
    exact ⟨emitMask_getLsbD hpin k, emitMask_getLsbD hpin k⟩
  · rw [modulate_getLast? p (by omega), halfCycle_even p (by omega)]
  · rw [modulate_getLast? p hne, halfCycle_odd p (by omega)]

/-! ### No assertion without a deassertion -/

/-- The instruction deasserts the emitter and asserts nothing. -/
def Pulse.Deasserts (p : Params) (y : Pulse) : Prop := y.onMask = 0#32 ∧ y.offMask = 1#32 <<< p.emitPin

/-- Every instruction of the list that asserts a line is followed by one that deasserts the emitter. -/
def Released (p : Params) (wave : List Pulse) : Prop :=
  ∀ k x, wave[k]? = some x → x.onMask ≠ 0#32 → ∃ y, wave[k + 1]? = some y ∧ y.Deasserts p

section
variable {p : Params} {wave : List Pulse}

theorem pulseOff_deasserts (p : Params) (d : Nat) : (pulseOff p d).Deasserts p := ⟨rfl, rfl⟩

theorem Released.pulseOff_cons (h : Released p wave) (d : Nat) : Released p (pulseOff p d :: wave) := by
  intro k x hx hon
  cases k with
  | zero => cases hx; exact absurd rfl hon
  | succ k => exact h k x hx hon

/-- A burst before a wave that begins with a deassertion: an ON is followed by the burst's OFF, or by that one. -/
theorem Released.modulate_append (h : Released p wave) (d : Nat) (hhead : ∃ y, wave[0]? = some y ∧ y.Deasserts p) :
    Released p (modulate p d ++ wave) := by
  intro k x hx hon
  rcases Nat.lt_or_ge k (carrierCount p d) with hk | hk
  · rw [List.getElem?_append_left (by simpa using hk), modulate_getElem? p hk] at hx
    have heven : k % 2 = 0 := by
      by_contra hodd
      cases hx
      rw [halfCycle_odd p (by omega)] at hon
      exact hon rfl
    rcases Nat.lt_or_ge (k + 1) (carrierCount p d) with hnext | hlast
    · rw [List.getElem?_append_left (by simpa using hnext), modulate_getElem? p hnext]
      exact ⟨_, rfl, by rw [halfCycle_odd p (by omega)]; exact pulseOff_deasserts p 13⟩
    · rw [List.getElem?_append_right (by simpa using hlast), modulate_length,
        Nat.sub_eq_zero_of_le (by omega)]
      exact hhead
  · rw [List.getElem?_append_right (by simpa using hk), modulate_length] at hx
    rw [List.getElem?_append_right (by simp; omega), modulate_length, Nat.sub_add_comm hk]
    exact h _ x hx hon

theorem waveTail_released (p : Params) : Released p (waveTail p) :=
  Released.pulseOff_cons (Released.pulseOff_cons (fun _ _ hx => by simp at hx) p.tTail2) p.tTail1

/-- From a space on, the wave begins with a deassertion; from a mark on, that follows its burst. -/
theorem assembleFrom_released (p : Params) (mark : Bool) (train : List Nat) :
    Released p (assembleFrom p mark train ++ waveTail p) := by
  induction train generalizing mark with
  | nil => exact waveTail_released p
  | cons d rest ih =>
    cases mark with
    | false => exact (ih true).pulseOff_cons d
    | true =>
      rw [assembleFrom, List.append_assoc]
      refine (ih false).modulate_append d ?_
      cases rest with
      | nil => exact ⟨_, rfl, pulseOff_deasserts p _⟩
      | cons d' rest => exact ⟨_, rfl, pulseOff_deasserts p _⟩

end

/-- Settles O36: a wave is the train's instructions and the terminal ones, which are released together. -/
theorem everyAssertIsFollowedByADeassert : Obligations.EveryAssertIsFollowedByADeassert :=
  fun p train k x hx hon => assembleFrom_released p true train k x hx hon

end Sys2Proof.Machine
end

section
/-! PROOFS. The wave of a frame (44_wave_assembler.md R97 to R102), bit by bit, and its chunks
(45_transmission_driver.md R118): obligations O37, O38, O46 and O57. -/

namespace Sys2Proof.Machine

/-! ### The parts of a wave -/

/-- The instructions of the header. -/
def headerPulses (p : Params) : List Pulse :=
  modulate p p.vt.tHdrMark ++ pulseOff p p.vt.tHdrSpace :: modulate p p.vt.tGap

/-- The instructions of a bit: one OFF for the space that tells its value, and the burst of the gap. -/
def bitPulses (p : Params) (bit : Bool) : List Pulse :=
  pulseOff p (bitDuration p.vt bit) :: modulate p p.vt.tGap

theorem assembleFrom_bits (p : Params) (bits : List Bool) :
    assembleFrom p false (bits.flatMap (bitPair p.vt)) = bits.flatMap (bitPulses p) := by
  induction bits with
  | nil => rfl
  | cons bit bits ih =>
    rw [List.flatMap_cons, List.flatMap_cons, ← ih]
    rfl

/-- A wave is its header, its bits' instructions and the terminal ones. -/
theorem waveOf_eq (p : Params) (F : List Byte) :
    waveOf p F = headerPulses p ++ ((frameBits F).flatMap (bitPulses p) ++ waveTail p) := by
  rw [waveOf, encodeFrame_eq, assemble, ← assembleFrom_bits, headerPulses]
  simp [assembleFrom_mark_space, assembleFrom]

section
variable (p : Params)

@[simp] theorem headerPulses_length :
    (headerPulses p).length = carrierCount p p.vt.tHdrMark + 1 + carrierCount p p.vt.tGap := by
  simp [headerPulses]
  omega

@[simp] theorem bitPulses_length (bit : Bool) : (bitPulses p bit).length = carrierCount p p.vt.tGap + 1 := by
  simp [bitPulses]

@[simp] theorem bits_flatMap_length (bits : List Bool) :
    (bits.flatMap (bitPulses p)).length = bits.length * (carrierCount p p.vt.tGap + 1) := by
  simp [List.length_flatMap]

variable {p}

/-- What stands in the header is what stands there in the wave. -/
theorem waveOf_getElem?_header (F : List Byte) {k : Nat} (hk : k < (headerPulses p).length) :
    (waveOf p F)[k]? = (headerPulses p)[k]? := by
  rw [waveOf_eq, List.getElem?_append_left hk]

theorem waveOf_getElem?_mark (F : List Byte) {k : Nat} (hk : k < carrierCount p p.vt.tHdrMark) :
    (waveOf p F)[k]? = some (halfCycle p k) := by
  rw [waveOf_getElem?_header F (by simp; omega), headerPulses, List.getElem?_append_left (by simpa using hk),
    modulate_getElem? p hk]

/-- The header's space and gap. -/
theorem waveOf_getElem?_space (F : List Byte) {k : Nat} (hk : k < carrierCount p p.vt.tGap + 1) :
    (waveOf p F)[carrierCount p p.vt.tHdrMark + k]? =
      (pulseOff p p.vt.tHdrSpace :: modulate p p.vt.tGap)[k]? := by
  rw [waveOf_getElem?_header F (by simp; omega), headerPulses, List.getElem?_append_right (by simp)]
  simp

/-- The instructions of bit i of the frame. -/
theorem waveOf_getElem?_bit {F : List Byte} {i k : Nat} {bit : Bool} (hi : (frameBits F)[i]? = some bit)
    (hk : k < carrierCount p p.vt.tGap + 1) :
    (waveOf p F)[(headerPulses p).length + ((carrierCount p p.vt.tGap + 1) * i + k)]? = (bitPulses p bit)[k]? := by
  have hblock := flatMap_getElem?_block (bitPulses_length p) hi hk
  have hin : (carrierCount p p.vt.tGap + 1) * i + k < ((frameBits F).flatMap (bitPulses p)).length := by
    refine (List.getElem?_eq_some_iff.mp (hblock.trans (List.getElem?_eq_getElem ?_))).1
    simpa using hk
  rw [waveOf_eq, List.getElem?_append_right (Nat.le_add_right ..), Nat.add_sub_cancel_left,
    List.getElem?_append_left hin, hblock]

/-- The terminal instructions. -/
theorem waveOf_getElem?_tail (F : List Byte) (k : Nat) :
    (waveOf p F)[(headerPulses p).length + (8 * F.length * (carrierCount p p.vt.tGap + 1) + k)]? =
      (waveTail p)[k]? := by
  rw [waveOf_eq, List.getElem?_append_right (Nat.le_add_right ..), Nat.add_sub_cancel_left,
    List.getElem?_append_right (by simp)]
  simp

theorem cons_modulate_getElem?_succ (x : Pulse) {d k : Nat} (hk : k < carrierCount p d) :
    (x :: modulate p d)[k + 1]? = some (halfCycle p k) := by
  rw [List.getElem?_cons_succ, modulate_getElem? p hk]

end

/-- Settles O37: the header, and for each bit one instruction and the burst of a gap. -/
theorem waveLengthOfAFrame : Obligations.WaveLengthOfAFrame := by
  intro p F
  rw [waveOf_eq]
  simp
  ring

/-- Settles O38: each place is one of the header, of a bit's instructions, or of the terminal part. -/
theorem waveLayoutOfAFrame : Obligations.WaveLayoutOfAFrame := by
  rintro p F h g rfl rfl
  have hlen := headerPulses_length p
  refine ⟨fun k hk => waveOf_getElem?_mark F hk, waveOf_getElem?_space F (k := 0) (by omega), fun k hk => ?_,
    fun n b j hn hj => ?_, ?_, ?_⟩
  · rw [Nat.add_assoc, Nat.add_comm 1, waveOf_getElem?_space F (by omega)]
    exact cons_modulate_getElem?_succ _ hk
  · have hbit := frameBits_getElem? hn hj
    rw [← hlen, Nat.mul_comm (8 * n + j)]
    refine ⟨waveOf_getElem?_bit hbit (k := 0) (by omega), fun k hk => ?_⟩
    rw [Nat.add_assoc, Nat.add_assoc, Nat.add_comm 1, waveOf_getElem?_bit hbit (by omega)]
    exact cons_modulate_getElem?_succ _ hk
  · rw [← hlen]
    exact waveOf_getElem?_tail F 0
  · rw [← hlen, Nat.add_assoc]
    exact waveOf_getElem?_tail F 1

/-! ### Chunks -/

/-- The first chunks are the wave's beginning. -/
theorem flatMap_chunkOf (C : Nat) (wave : List Pulse) (k : Nat) :
    (List.range k).flatMap (chunkOf C wave) = wave.take (k * C) := by
  induction k with
  | zero => simp
  | succ k ih =>
    have hchunk : chunkOf C wave k = (wave.drop (k * C)).take C := by
      rw [chunkOf, slice, List.drop_take, Nat.add_sub_cancel_left]
    rw [List.range_succ, List.flatMap_append, ih, List.flatMap_singleton, hchunk, ← List.take_add, Nat.succ_mul]

/-- Settles O46: the chunks end past the wave, and each but the last ends within it. -/
theorem chunksMakeUpTheWave : Obligations.ChunksMakeUpTheWave := by
  intro C wave hC
  have hend : wave.length < (wave.length / C + 1) * C := by
    rw [Nat.succ_mul]
    exact Nat.lt_div_mul_add hC
  refine ⟨?_, fun i hi => ?_, chunkOf_last_length hC wave⟩
  · rw [flatMap_chunkOf, chunkCount, List.take_of_length_le hend.le]
  · have hin : (i + 1) * C ≤ wave.length := (Nat.mul_le_mul_right C hi).trans (Nat.div_mul_le_self ..)
    rw [Nat.succ_mul] at hin
    rw [chunkOf, slice_length]
    omega

/-! ### The first Fujitsu transmission -/

/-- The wave of a Fujitsu frame (44_wave_assembler.md R102): 252 and 32 half-cycles for the header's mark and gap. -/
theorem fujitsu_waveOf_length {p : Params} (hf : IsFujitsu p) (hc : p.SpecCarrier) (F : List Byte) :
    (waveOf p F).length = 287 + 264 * F.length := by
  have hcount (d : Nat) : carrierCount p d = (19 * d + 125) / 250 := (carrierCountFormula p d).1 hc
  rw [waveLengthOfAFrame p F, hcount, hcount, hf.hdrMark, hf.gap]
  omega

/-- Settles O57: the acceptance of the first SEND_WAVE, whose checksum is that of the template. -/
theorem fujitsuFirstTransmission : Obligations.FujitsuFirstTransmission := by
  intro p h hf hc
  obtain ⟨s', hx, hck, -, hwave, -⟩ := (sendWaveAcceptsOneRun.2 (State.resetOf p h) hf.admitted).2
    (List.mem_cons_self ..)
  have hsum : checksum p.vt ((State.resetOf p h).frame .fn) = some 0x2E#8 := by
    rw [State.resetOf_frame]
    exact hf.ckValue
  obtain ⟨hskip, hbyte, -⟩ := hck 0x2E#8 hsum
  refine ⟨s', hx, hskip, hbyte, hwave, fun F => ?_, fujitsu_waveOf_length hf hc, hwave ▸ waveTail_suffix p _⟩
  rw [encodeFrame_eq, hf.hdrMark, hf.hdrSpace, hf.gap]
  rfl

end Sys2Proof.Machine
end
